-- ==== Sys2Proof/Word.lean ====
section
/-! DEFINITION. The words of the CORE and their plainest arithmetic (00_scope.md rules R11 to R14). -/

namespace Sys2Proof

/-- A byte of memory, a general register or a timer (rules R30, R40, R60). -/
abbrev Byte := BitVec 8

/-- A 4-bit quantity (rule R20, "Nibble"). -/
abbrev Nibble := BitVec 4

/-- A 12-bit address field `nnn` (rule R18). -/
abbrev Addr12 := BitVec 12

/-- An instruction word, the program counter or the index register (rules R34, R38, R90). -/
abbrev Word := BitVec 16

/-- The number of a general register, one of 16 (rules R30, R93). -/
abbrev Reg := BitVec 4

/-- `hi ++ lo` of rule R13: `hi` is bits 15 to 8. -/
def catBytes (hi lo : Byte) : Word := hi ++ lo

end Sys2Proof
end

