-- ==== Sys2Proof/Config.lean ====
section
/-! DEFINITION. What is fixed for one CORE: the fixed values and the named parameters of 00_scope.md rule R9.
The defaults of the parameters are in Sys2Proof/Machine/Startup.lean. -/

namespace Sys2Proof

/-- MEM_SIZE: 4096 bytes (rule R9). -/
abbrev memSize : Nat := 4096

/-- ROM_START: 0x200 (rule R9). -/
abbrev romStart : Nat := 0x200

/-- ROM_MAX: MEM_SIZE − ROM_START = 3584 bytes (rule R9). -/
abbrev romMax : Nat := 3584

/-- FONT_SIZE: 16 glyphs of 5 bytes (rule R9). -/
abbrev fontSize : Nat := 80

/-- FB_WIDTH: 64 columns (rule R9). -/
abbrev fbWidth : Nat := 64

/-- FB_HEIGHT: 32 rows (rule R9). -/
abbrev fbHeight : Nat := 32

/-- FB_WIDTH × FB_HEIGHT: 2048 cells (rule R9). -/
abbrev fbCells : Nat := 2048

/-- VERTICAL_MODE: what a sprite row at or past row 32 does (rules R9, R166). -/
inductive VerticalMode where
  | clip
  | wrap
  | fault
deriving DecidableEq, Repr

/-- ADDR_OVERFLOW: what a computed address at or past 0x1000 does (rules R9, R65). -/
inductive AddrOverflow where
  | wrap
  | fault
deriving DecidableEq, Repr

/-- The named parameters of rule R9, chosen at construction (rules R42, R230). FONT_BASE is a byte address with
FONT_BASE + 80 ≤ ROM_START, which is what its type says. -/
structure Params where
  fontBase       : Fin (romStart - fontSize + 1)
  font           : Vector Byte fontSize
  vfCollision    : Bool
  addCarry       : Bool
  verticalMode   : VerticalMode
  addrOverflow   : AddrOverflow
  timerDecrement : Bool
deriving DecidableEq, Repr

end Sys2Proof
end

