-- ==== Sys2Proof/Syntax.lean ====
section
/-! DEFINITION. The instructions of the CORE: one constructor per row of spec/opcode_table.json
(30_encoding.md rules R91, R94, R95). A field holds exactly the bits the encoding gives it. The bits a row
ignores (formats Z and U of rule R91) are kept in a field `ignored`, so that a word and its instruction say
the same; no meaning depends on them but for the word that an unknown row reports (log entry 10). -/

namespace Sys2Proof

inductive Instr where
  /-- Family 0x0, format Z: clear the framebuffer (rule R130). -/
  | cls (ignored : BitVec 12)
  /-- Family 0x1, format A: jump (rule R133). -/
  | jp (nnn : Addr12)
  /-- Family 0x2, format U (rule R190). -/
  | unknown2 (ignored : BitVec 12)
  /-- Family 0x3, format U (rule R190). -/
  | unknown3 (ignored : BitVec 12)
  /-- Family 0x4, format U (rule R190). -/
  | unknown4 (ignored : BitVec 12)
  /-- Family 0x5, format U (rule R190). -/
  | unknown5 (ignored : BitVec 12)
  /-- Family 0x6, format XK: set register (rule R140). -/
  | ldVByte (x : Reg) (kk : Byte)
  /-- Family 0x7, format XK: add immediate (rule R141). -/
  | addVByte (x : Reg) (kk : Byte)
  /-- Family 0x8, format U (rule R190). -/
  | unknown8 (ignored : BitVec 12)
  /-- Family 0x9, format U (rule R190). -/
  | unknown9 (ignored : BitVec 12)
  /-- Family 0xA, format A: set index register (rule R143). -/
  | ldIAddr (nnn : Addr12)
  /-- Family 0xB, format U (rule R190). -/
  | unknownB (ignored : BitVec 12)
  /-- Family 0xC, format U (rule R190). -/
  | unknownC (ignored : BitVec 12)
  /-- Family 0xD, format XYN: sprite draw (rule R160). -/
  | drw (x : Reg) (y : Reg) (n : Nibble)
  /-- Family 0xE, format U (rule R190). -/
  | unknownE (ignored : BitVec 12)
  /-- Family 0xF, format U (rule R190). -/
  | unknownF (ignored : BitVec 12)
deriving DecidableEq, Repr

end Sys2Proof
end

