-- ==== Sys2Proof/WellFormed.lean ====
section
/-! DEFINITION. Well-formedness of what is handed to the CORE: an instruction and a program image. -/

namespace Sys2Proof

/-- Every value of every operand field is legal (30_encoding.md rules R93, R96, R98), and each field of `Instr`
holds exactly its bits, so the types leave nothing to check: one arm per constructor says so. -/
def Instr.wellFormed : Instr → Bool
  | .cls _ => true
  | .jp _ => true
  | .unknown2 _ => true
  | .unknown3 _ => true
  | .unknown4 _ => true
  | .unknown5 _ => true
  | .ldVByte _ _ => true
  | .addVByte _ _ => true
  | .unknown8 _ => true
  | .unknown9 _ => true
  | .ldIAddr _ => true
  | .unknownB _ => true
  | .unknownC _ => true
  | .drw _ _ _ => true
  | .unknownE _ => true
  | .unknownF _ => true

/-- The ROM image fits the ROM region (20_memory.md rule R70: Load fails when the length is over 3584). -/
def romFits (data : List Byte) : Bool := decide (data.length ≤ romMax)

end Sys2Proof
end

