-- ==== Sys2Proof/Decode.lean ====
section
/-! DEFINITION. The decoder and the encoder (30_encoding.md rules R90 to R98; 00_scope.md rules R12, R13, R18). -/

namespace Sys2Proof

/-- `op = w[15:12]` (rule R18). -/
def opField (w : Word) : Nibble := w.extractLsb' 12 4

/-- `n1 = w[11:8]` (rule R18). -/
def n1Field (w : Word) : Nibble := w.extractLsb' 8 4

/-- `n2 = w[7:4]` (rule R18). -/
def n2Field (w : Word) : Nibble := w.extractLsb' 4 4

/-- `n3 = w[3:0]` (rule R18). -/
def n3Field (w : Word) : Nibble := w.extractLsb' 0 4

/-- `kk = w[7:0]` (rule R18). -/
def kkField (w : Word) : Byte := w.extractLsb' 0 8

/-- `nnn = w[11:0]` (rule R18); also the bits that formats Z and U ignore (rule R91). -/
def nnnField (w : Word) : Addr12 := w.extractLsb' 0 12

/-- The opcode dispatch multiplexer of rule R94: a 16-way selection on the top nibble alone. Total (rule R98).
The last arm is 0xF, the one value of a nibble that no earlier arm names. -/
def decode (w : Word) : Instr :=
  match (opField w).toNat with
  | 0x0 => .cls (nnnField w)
  | 0x1 => .jp (nnnField w)
  | 0x2 => .unknown2 (nnnField w)
  | 0x3 => .unknown3 (nnnField w)
  | 0x4 => .unknown4 (nnnField w)
  | 0x5 => .unknown5 (nnnField w)
  | 0x6 => .ldVByte (n1Field w) (kkField w)
  | 0x7 => .addVByte (n1Field w) (kkField w)
  | 0x8 => .unknown8 (nnnField w)
  | 0x9 => .unknown9 (nnnField w)
  | 0xA => .ldIAddr (nnnField w)
  | 0xB => .unknownB (nnnField w)
  | 0xC => .unknownC (nnnField w)
  | 0xD => .drw (n1Field w) (n2Field w) (n3Field w)
  | 0xE => .unknownE (nnnField w)
  | _ => .unknownF (nnnField w)

/-- Why a byte sequence is no instruction. Safe: nothing is executed. -/
inductive DecodeError where
  /-- Fewer than the 2 bytes that every instruction has (rule R90). -/
  | truncated
deriving DecidableEq, Repr

/-- Decode the first instruction of a byte sequence, the high byte at the lower address (rules R62, R90), and give
the bytes after it. -/
def decodeBytes : List Byte → Except DecodeError (Instr × List Byte)
  | hi :: lo :: rest => .ok (decode (catBytes hi lo), rest)
  | _ => .error .truncated

/-- The top nibble of an instruction's words (rule R94). -/
def Instr.family : Instr → Nibble
  | .cls _ => 0x0#4
  | .jp _ => 0x1#4
  | .unknown2 _ => 0x2#4
  | .unknown3 _ => 0x3#4
  | .unknown4 _ => 0x4#4
  | .unknown5 _ => 0x5#4
  | .ldVByte _ _ => 0x6#4
  | .addVByte _ _ => 0x7#4
  | .unknown8 _ => 0x8#4
  | .unknown9 _ => 0x9#4
  | .ldIAddr _ => 0xA#4
  | .unknownB _ => 0xB#4
  | .unknownC _ => 0xC#4
  | .drw _ _ _ => 0xD#4
  | .unknownE _ => 0xE#4
  | .unknownF _ => 0xF#4

/-- Bits 11 to 0 of an instruction's word (the patterns of rule R95). -/
def Instr.operandBits : Instr → BitVec 12
  | .cls b => b
  | .jp nnn => nnn
  | .unknown2 b => b
  | .unknown3 b => b
  | .unknown4 b => b
  | .unknown5 b => b
  | .ldVByte x kk => x ++ kk
  | .addVByte x kk => x ++ kk
  | .unknown8 b => b
  | .unknown9 b => b
  | .ldIAddr nnn => nnn
  | .unknownB b => b
  | .unknownC b => b
  | .drw x y n => x ++ y ++ n
  | .unknownE b => b
  | .unknownF b => b

/-- The word of an instruction (rule R95). -/
def encode (i : Instr) : Word := i.family ++ i.operandBits

/-- The two bytes of a word in memory, the high byte first (rule R62). -/
def wordBytes (w : Word) : List Byte := [w.extractLsb' 8 8, w.extractLsb' 0 8]

/-- An instruction as it stands in memory (rule R90). -/
def encodeBytes (i : Instr) : List Byte := wordBytes (encode i)

/-- One row of the encoding table of rule R95. -/
structure OpcodeRow where
  mnemonic : String
  mask     : Word
  pattern  : Word
deriving DecidableEq, Repr

/-- The encoding table (rule R95; spec/opcode_table.json), in the table's order. -/
def opcodeTable : List OpcodeRow :=
  [⟨"CLS", 0xF000#16, 0x0000#16⟩, ⟨"JP", 0xF000#16, 0x1000#16⟩,
   ⟨"UNKNOWN_2", 0xF000#16, 0x2000#16⟩, ⟨"UNKNOWN_3", 0xF000#16, 0x3000#16⟩,
   ⟨"UNKNOWN_4", 0xF000#16, 0x4000#16⟩, ⟨"UNKNOWN_5", 0xF000#16, 0x5000#16⟩,
   ⟨"LD_V_BYTE", 0xF000#16, 0x6000#16⟩, ⟨"ADD_V_BYTE", 0xF000#16, 0x7000#16⟩,
   ⟨"UNKNOWN_8", 0xF000#16, 0x8000#16⟩, ⟨"UNKNOWN_9", 0xF000#16, 0x9000#16⟩,
   ⟨"LD_I_ADDR", 0xF000#16, 0xA000#16⟩, ⟨"UNKNOWN_B", 0xF000#16, 0xB000#16⟩,
   ⟨"UNKNOWN_C", 0xF000#16, 0xC000#16⟩, ⟨"DRW", 0xF000#16, 0xD000#16⟩,
   ⟨"UNKNOWN_E", 0xF000#16, 0xE000#16⟩, ⟨"UNKNOWN_F", 0xF000#16, 0xF000#16⟩]

/-- The row a word belongs to. -/
def OpcodeRow.matches (r : OpcodeRow) (w : Word) : Bool := (w &&& r.mask) == r.pattern

/-- The mnemonic of an instruction's row in spec/opcode_table.json. -/
def Instr.mnemonic : Instr → String
  | .cls _ => "CLS"
  | .jp _ => "JP"
  | .unknown2 _ => "UNKNOWN_2"
  | .unknown3 _ => "UNKNOWN_3"
  | .unknown4 _ => "UNKNOWN_4"
  | .unknown5 _ => "UNKNOWN_5"
  | .ldVByte _ _ => "LD_V_BYTE"
  | .addVByte _ _ => "ADD_V_BYTE"
  | .unknown8 _ => "UNKNOWN_8"
  | .unknown9 _ => "UNKNOWN_9"
  | .ldIAddr _ => "LD_I_ADDR"
  | .unknownB _ => "UNKNOWN_B"
  | .unknownC _ => "UNKNOWN_C"
  | .drw _ _ _ => "DRW"
  | .unknownE _ => "UNKNOWN_E"
  | .unknownF _ => "UNKNOWN_F"

/-- The instruction whose word is the number `w`, given with `nbits` bits (the numbering of
spec/opcode_table.json: one 16-bit word, bit 0 least significant). Bits at or above `nbits` are 0. The word is laid
out high byte first, as memory holds it (rule R62), and handed to the decoder. -/
def decodeTableWord (nbits w : Nat) : Option Instr :=
  match decodeBytes (wordBytes (BitVec.ofNat 16 (w % 2 ^ nbits))) with
  | .ok (i, _) => some i
  | .error _ => none

end Sys2Proof
end

