-- ==== Sys2Proof/Machine/Startup.lean ====
section
/-! DEFINITION. The values a CORE starts with: the defaults of the parameters (00_scope.md rules R9, R10), the
default font (20_memory.md rule R66) and the startup values (10_state.md rule R47). -/

namespace Sys2Proof.Machine

/-- The default of FONT, glyph 0 first, each glyph's top row first (rule R66).
PRESUMED (log entry 7): the source gives no byte values; the table is the family's conventional font. -/
def defaultFont : Vector Byte fontSize :=
  #v[0xF0, 0x90, 0x90, 0x90, 0xF0,  0x20, 0x60, 0x20, 0x20, 0x70,
     0xF0, 0x10, 0xF0, 0x80, 0xF0,  0xF0, 0x10, 0xF0, 0x10, 0xF0,
     0x90, 0x90, 0xF0, 0x10, 0x10,  0xF0, 0x80, 0xF0, 0x10, 0xF0,
     0xF0, 0x80, 0xF0, 0x90, 0xF0,  0xF0, 0x10, 0x20, 0x40, 0x40,
     0xF0, 0x90, 0xF0, 0x90, 0xF0,  0xF0, 0x90, 0xF0, 0x10, 0xF0,
     0xF0, 0x90, 0xF0, 0x90, 0x90,  0xE0, 0x90, 0xE0, 0x90, 0xE0,
     0xF0, 0x80, 0x80, 0x80, 0xF0,  0xE0, 0x90, 0x90, 0x90, 0xE0,
     0xF0, 0x80, 0xF0, 0x80, 0xF0,  0xF0, 0x80, 0xF0, 0x80, 0x80]

/-- The defaults of rule R9. DESIGN CHOICE of the spec (decisions D6, D9, D10, D11, D16, D18; log entry 6). -/
def defaultParams : Params where
  fontBase := 0x050
  font := defaultFont
  vfCollision := true
  addCarry := false
  verticalMode := .clip
  addrOverflow := .wrap
  timerDecrement := false

/-- Every general register at construction and reset (rule R47). DESIGN CHOICE (decision D3, log entry 4). -/
def startupReg : Byte := 0x00#8

/-- The index register at construction and reset (rule R47). DESIGN CHOICE (decision D3, log entry 4). -/
def startupIndex : Word := 0x0000#16

/-- The program counter at construction and reset: the ROM start (rules R47, R232). -/
def startupPc : Word := 0x0200#16

/-- Both timers at construction and reset (rule R47). DESIGN CHOICE (decision D3, log entry 4). -/
def startupTimer : Byte := 0x00#8

/-- The framebuffer at construction, every cell 0 (rule R47). DESIGN CHOICE (decision D4, log entry 5). -/
def startupFramebuffer : Vector (BitVec fbWidth) fbHeight := Vector.replicate fbHeight 0#fbWidth

end Sys2Proof.Machine
end

