-- ==== Sys2Proof/Machine/State.lean ====
section
/-! DEFINITION. The state of the CORE (10_state.md), why it can stop, and its state after construction and reset. -/

namespace Sys2Proof.Machine

/-- The reasons of a `raise` (60_exceptions.md rules R201, R204): the model faults, kept in `State.faulted`. -/
inductive FaultReason where
  /-- A computed address at or past 0x1000 under ADDR_OVERFLOW = fault, or MemRead of such an address
  (rules R64, R65); the address is recorded. -/
  | addressFault (addr : Nat)
  /-- A sprite row at or past row 32 under VERTICAL_MODE = fault (rule R166); the row number is recorded. -/
  | verticalOverflow (row : Nat)
deriving DecidableEq, Repr

/-- The diagnostic `UnknownOpcode(w, a0)` of a tick: the word and the 12-bit address it was fetched from
(44_unknown_opcode.md rule R191). -/
structure Diag where
  word : Word
  addr : Addr12
deriving DecidableEq, Repr

/-- What a tick that does not fault returns (40_engine.md rule R117). -/
structure TickOutput where
  changed : Bool
  diag    : Option Diag
deriving DecidableEq, Repr

/-- Memory as (address, byte) pairs, addresses strictly rising, none listed with the byte an unlisted address reads
as (`Sys2Proof.Machine.unlistedByte`). -/
abbrev Memory := List Host.Cell

/-- The framebuffer: a one-bit-per-cell store of 2048 cells, row-major (rules R43, R45), held as its 32 rows of 64
cells: cell k is bit k mod 64 of row k div 64. It is read and written through `Framebuffer.get` and `Framebuffer.put`
alone.
DESIGN CHOICE (log entry 19). -/
abbrev Framebuffer := Vector (BitVec fbWidth) fbHeight

/-- Everything the spec gives the CORE (rules R30 to R47), and two fields of the model's own: `cfg` (log entry 1) and
`out` (log entry 2). -/
structure State where
  /-- The general registers x[0] to x[15] (rule R30). -/
  x       : Vector Byte 16
  /-- The index register (rule R38). -/
  I       : Word
  /-- The program counter (rule R34). -/
  pc      : Word
  /-- The delay timer DT (rule R40). -/
  dt      : Byte
  /-- The sound timer ST (rule R40). -/
  st      : Byte
  /-- The 4096 bytes of memory (rules R46, R60). -/
  mem     : Memory
  /-- The framebuffer (rule R43). -/
  fb      : Framebuffer
  /-- Whether a tick has run since the last construction or reset (rules R46, R119). -/
  started : Bool
  /-- The mark of a raised fault (rules R46, R116, R205). -/
  faulted : Option FaultReason
  /-- The parameters this CORE was constructed with (rules R9, R42). DESIGN CHOICE (log entry 1): the model's own
  field; only construction writes it. -/
  cfg     : Params
  /-- What the latest tick returned (rule R117): `none` before the first tick and after a tick that raised.
  DESIGN CHOICE (log entry 2): the model's own field; nothing in the CORE reads it. -/
  out     : Option TickOutput
deriving DecidableEq, Repr

/-- Why the machine stops. -/
inductive Fault where
  /-- Raised by `tick` on a CORE whose `faulted` mark is set: it has no tick step and is stuck (40_engine.md rule
  R120, 60_exceptions.md rule R205). Safe: the spec gives no further step. -/
  | faultedCore (r : FaultReason)
deriving DecidableEq, Repr

/-- Why an action has no meaning. -/
inductive Refusal where
  /-- Answered by an arm of `exec` for an instruction that has no meaning yet; no arm of this model does. Safe. -/
  | notModelled (mnemonic : String)
  /-- Answered by `hostLoad` when a tick has run since construction or reset (20_memory.md rule R72). Safe. -/
  | loadAfterStart
  /-- Answered by `hostLoad` on a faulted CORE (20_memory.md rule R70, 60_exceptions.md rule R205). Safe. -/
  | loadWhileFaulted
  /-- Answered by `hostTimerTick` when TIMER_DECREMENT is false: the action does not exist
  (70_reset_and_hazards.md rule R240). Safe. -/
  | noTimerTick
  /-- Answered by `runActions` for a Tick after a rejected Load, which the host must not do
  (70_reset_and_hazards.md rule R237; 93_implementation_defined.md U11). Safe. -/
  | tickAfterRejectedLoad
deriving DecidableEq, Repr

/-- A freshly constructed CORE (70_reset_and_hazards.md rule R230; 10_state.md rule R47, "after construction").
Memory lists nothing: every byte reads as construction leaves it. -/
def State.construct (p : Params) : State where
  x := Vector.replicate 16 startupReg
  I := startupIndex
  pc := startupPc
  dt := startupTimer
  st := startupTimer
  mem := []
  fb := startupFramebuffer
  started := false
  faulted := none
  cfg := p
  out := none

/-- The machine right after reset: constructed with every parameter at its default (rules R9, R47). A Reset of this
state leaves it as it is. -/
def State.reset : State := State.construct defaultParams

end Sys2Proof.Machine
end

