-- ==== Sys2Proof/Machine/Ops.lean ====
section
/-! DEFINITION. The named operations over the state: one update per field, memory, the address reduction, the common
prefix of a tick and the raising of a fault. -/

namespace Sys2Proof.Machine

/-! ### One named update per field that anything writes -/

/-- Write all the general registers. -/
def State.setX (s : State) (v : Vector Byte 16) : State := { s with x := v }

/-- Write the index register. -/
def State.setI (s : State) (v : Word) : State := { s with I := v }

/-- Write the program counter. -/
def State.setPc (s : State) (v : Word) : State := { s with pc := v }

/-- Write both timers. -/
def State.setTimers (s : State) (dt st : Byte) : State := { s with dt := dt, st := st }

/-- Write the memory. -/
def State.setMem (s : State) (m : Memory) : State := { s with mem := m }

/-- Write the framebuffer. -/
def State.setFb (s : State) (f : Framebuffer) : State := { s with fb := f }

/-- Write the `started` mark. -/
def State.setStarted (s : State) (b : Bool) : State := { s with started := b }

/-- Write the `faulted` mark. -/
def State.setFaulted (s : State) (r : Option FaultReason) : State := { s with faulted := r }

/-- Write the tick's outputs. -/
def State.setOut (s : State) (o : Option TickOutput) : State := { s with out := o }

/-! ### Memory (20_memory.md) -/

/-- What an unlisted address reads as: the construction contents of rule R67, the font table at FONT_BASE and 0x00
everywhere else (log entry 20). -/
def unlistedByte (p : Params) (a : Nat) : Byte :=
  if p.fontBase.val ≤ a ∧ a < p.fontBase.val + fontSize then (p.font[a - p.fontBase.val]?).getD 0x00#8 else 0x00#8

/-- The byte listed for an address, else what an unlisted address reads as. -/
def Memory.read (p : Params) : Memory → Nat → Byte
  | [], a => unlistedByte p a
  | (k, v) :: rest, a => if k = a then v else Memory.read p rest a

/-- Put `v` at address `a` in a rising list. -/
def Memory.insert (a : Nat) (v : Byte) : Memory → Memory
  | [] => [(a, v)]
  | (k, w) :: rest =>
    if a < k then (a, v) :: (k, w) :: rest
    else if a = k then (a, v) :: rest
    else (k, w) :: Memory.insert a v rest

/-- Take address `a` out of a rising list. -/
def Memory.erase (a : Nat) : Memory → Memory
  | [] => []
  | (k, w) :: rest => if k = a then rest else (k, w) :: Memory.erase a rest

/-- Write one byte, keeping the canonical form: writing what an unlisted address reads as removes the entry. -/
def Memory.write (p : Params) (m : Memory) (a : Nat) (v : Byte) : Memory :=
  if v = unlistedByte p a then Memory.erase a m else Memory.insert a v m

/-- MemWrite of a byte sequence at `a`, `a + 1`, … in ascending order (rules R16, R70). -/
def Memory.writeBytes (p : Params) (m : Memory) (a : Nat) : List Byte → Memory
  | [] => m
  | b :: rest => Memory.writeBytes p (Memory.write p m a b) (a + 1) rest

/-- Every listed address is above `lo` (when there is a `lo`), inside the address space and rising, and no entry holds
what an unlisted address reads as. -/
def Memory.wfFrom (p : Params) : Option Nat → Memory → Bool
  | _, [] => true
  | lo, (k, v) :: rest =>
    (match lo with
      | none => true
      | some l => decide (l < k)) && decide (k < memSize) && decide (v ≠ unlistedByte p k) && Memory.wfFrom p (some k) rest

/-- The canonical form of a memory (strictly rising addresses inside 0x000..0xFFF, no entry that says nothing). -/
def Memory.wf (p : Params) (m : Memory) : Bool := Memory.wfFrom p none m

/-- The byte at an address, as a plain value: what every statement about memory speaks of. -/
def State.byteAt (s : State) (a : Nat) : Byte := Memory.read s.cfg s.mem a

/-- `EffAddr` (rule R65): the address reduction chosen by ADDR_OVERFLOW. -/
def effAddr (p : Params) (a : Nat) : Except FaultReason Nat :=
  match p.addrOverflow with
  | .wrap => .ok (a % memSize)
  | .fault => if a < memSize then .ok a else .error (.addressFault a)

/-- `MemRead(addr, 1)` (rule R64). -/
def memRead (s : State) (a : Nat) : Except FaultReason Byte :=
  if a < memSize then .ok (s.byteAt a) else .error (.addressFault a)

/-- `MemRead(EffAddr(a), 1)`: the read of every data access (rules R65, R162). -/
def memReadEff (s : State) (a : Nat) : Except FaultReason Byte :=
  match effAddr s.cfg a with
  | .error r => .error r
  | .ok e => memRead s e

/-! ### The framebuffer (10_state.md rule R43) -/

/-- The index of cell (column c, row r): `r * 64 + c` (rule R43). -/
def cellIndex (row col : Nat) : Nat := row * fbWidth + col

/-- Write one bit of a row of cells. -/
def putBit (row : BitVec fbWidth) (c : Nat) (b : Bool) : BitVec fbWidth :=
  if b then row ||| BitVec.twoPow fbWidth c else row &&& ~~~(BitVec.twoPow fbWidth c)

/-- `fb[k]`: `true` is the cell value 1, `false` is 0. There is no cell at or past 2048. -/
def Framebuffer.get (f : Framebuffer) (k : Nat) : Bool :=
  if h : k / fbWidth < fbHeight then (f[k / fbWidth]'h).getLsbD (k % fbWidth) else false

/-- `fb[k] <- b`. There is no cell at or past 2048. -/
def Framebuffer.put (f : Framebuffer) (k : Nat) (b : Bool) : Framebuffer :=
  if h : k / fbWidth < fbHeight then f.set (k / fbWidth) (putBit (f[k / fbWidth]'h) (k % fbWidth) b) h else f

/-- The framebuffer that CLS leaves: every cell 0 (rule R130). -/
def blankFramebuffer : Framebuffer := Vector.replicate fbHeight 0#fbWidth

/-- Cell (column `col`, row `row`) of the state's framebuffer. -/
def State.cell (s : State) (row col : Nat) : Bool := s.fb.get (cellIndex row col)

/-! ### The tick's common prefix and the raise -/

/-- What every tick does before its arm (40_engine.md rule R114): `pc <- (pc + 2) mod 65536` (rule R112),
`started <- true` (rule R119), `changed <- false; diag <- none`. -/
def beginTick (s : State) : State :=
  ((s.setPc (s.pc + 2#16)).setStarted true).setOut (some ⟨false, none⟩)

/-- `changed <- true` (rules R130, R160). -/
def markChanged (s : State) : State := s.setOut (some ⟨true, none⟩)

/-- `report UnknownOpcode(w, a0)` (rule R191). -/
def reportUnknown (s : State) (w : Word) (a0 : Addr12) : State := s.setOut (some ⟨false, some ⟨w, a0⟩⟩)

/-- `raise` (00_scope.md rule R17): `s` is the state BEFORE the tick. It is kept whole, with `faulted <- reason`, and
the tick returns no output (40_engine.md rule R116, 60_exceptions.md rule R205). No control goes to a handler and
nothing returns from a fault (rules R208, R209). -/
def raise (s : State) (r : FaultReason) : Host.Outcome State Fault Refusal :=
  .next ((s.setFaulted (some r)).setOut none)

end Sys2Proof.Machine
end

