-- ==== Sys2Proof/Machine/Operands.lean ====
section
/-! DEFINITION. Operand forms: the register operand and the zero-extended address field (30_encoding.md rules R92,
R93). Immediate bytes and the sprite height are used as they stand in the word. -/

namespace Sys2Proof.Machine

/-- `x[i]`: any of the 16 registers (rules R15, R93). -/
def readReg (s : State) (i : Reg) : Byte := s.x[i.toNat]'i.isLt

/-- `x[i] <- v` (rules R15, R31). -/
def writeReg (s : State) (i : Reg) (v : Byte) : State := s.setX (s.x.set i.toNat v i.isLt)

/-- `zext_16(nnn)`: an address field as it is written to `pc` or `I` (rule R92). -/
def zextAddr (nnn : Addr12) : Word := nnn.setWidth 16

/-- The X origin of a draw: `x[n1] mod 64` (43_sprite_draw.md rule R161). -/
def originX (s : State) (vx : Reg) : Nat := (readReg s vx).toNat % fbWidth

/-- The Y origin of a draw: `x[n2] mod 32` (43_sprite_draw.md rule R161). -/
def originY (s : State) (vy : Reg) : Nat := (readReg s vy).toNat % fbHeight

end Sys2Proof.Machine
end

