-- ==== Sys2Proof/Machine/Flags.lean ====
section
/-! DEFINITION. The two flag writes of the CORE, both to x[15] (10_state.md rules R33, R41). -/

namespace Sys2Proof.Machine

/-- The flag register x[15] (rule R33). DESIGN CHOICE of the spec (decision D21, log entry 6). -/
def flagReg : Reg := 15#4

/-- A flag as it is written to x[15]: 1 or 0. -/
def flagByte (b : Bool) : Byte := if b then 1#8 else 0#8

/-- The exact sum of a register and an immediate, 0 to 510 (42_register_immediate.md rules R139, R141). -/
def exactSum (a b : Byte) : Nat := a.toNat + b.toNat

/-- The sum reduced modulo 256 (rule R141). -/
def wrapSum (a b : Byte) : Byte := BitVec.ofNat 8 (exactSum a b % 256)

/-- The carry of an 8-bit add: the exact sum exceeds 255 (rule R142). -/
def carryOut (a b : Byte) : Bool := decide (exactSum a b > 255)

/-- `if ADD_CARRY: x[15] <- carry` (rule R142), after the register write. -/
def writeCarry (s : State) (carry : Bool) : State :=
  if s.cfg.addCarry then writeReg s flagReg (flagByte carry) else s

/-- `if VF_COLLISION: x[15] <- hit` (43_sprite_draw.md rule R165), after every cell. -/
def writeCollision (s : State) (hit : Bool) : State :=
  if s.cfg.vfCollision then writeReg s flagReg (flagByte hit) else s

end Sys2Proof.Machine
end

