-- ==== Sys2Proof/Machine/ClearJump.lean ====
section
/-! DEFINITION. Family 0x0 (CLS) and family 0x1 (JP): 41_clear_and_jump.md. A meaning takes the state BEFORE the tick
and answers the state after it (log entry 16). -/

namespace Sys2Proof.Machine

/-- CLS (rule R130): the low 12 bits are ignored (30_encoding.md rule R96). -/
def execCls (_ignored : BitVec 12) (s : State) : Host.Outcome State Fault Refusal :=
  .next (markChanged ((beginTick s).setFb blankFramebuffer))

/-- JP addr (rule R133): the target overwrites the advanced `pc` (10_state.md rule R35). -/
def execJp (nnn : Addr12) (s : State) : Host.Outcome State Fault Refusal :=
  .next ((beginTick s).setPc (zextAddr nnn))

end Sys2Proof.Machine
end

