-- ==== Sys2Proof/Machine/RegisterImmediate.lean ====
section
/-! DEFINITION. Families 0x6, 0x7 and 0xA: 42_register_immediate.md. -/

namespace Sys2Proof.Machine

/-- LD Vx, byte (rule R140). -/
def execLdVByte (x : Reg) (kk : Byte) (s : State) : Host.Outcome State Fault Refusal :=
  .next (writeReg (beginTick s) x kk)

/-- ADD Vx, byte (rules R141, R142): the carry write comes after the register write. -/
def execAddVByte (x : Reg) (kk : Byte) (s : State) : Host.Outcome State Fault Refusal :=
  .next (writeCarry (writeReg (beginTick s) x (wrapSum (readReg s x) kk)) (carryOut (readReg s x) kk))

/-- LD I, addr (rule R143). -/
def execLdIAddr (nnn : Addr12) (s : State) : Host.Outcome State Fault Refusal :=
  .next ((beginTick s).setI (zextAddr nnn))

end Sys2Proof.Machine
end

