-- ==== Sys2Proof/Machine/SpriteDraw.lean ====
section
/-! DEFINITION. Family 0xD, the sprite XOR framebuffer engine: 43_sprite_draw.md. -/

namespace Sys2Proof.Machine

/-- What the loops of rule R160 carry: the framebuffer as it stands and `hit`. -/
structure Draw where
  fb  : Framebuffer
  hit : Bool
deriving DecidableEq, Repr

/-- Bit `c` of a sprite byte counting from the most significant: `(b >> (7 − c)) & 1` (rule R163). -/
def spriteBit (b : Byte) (c : Nat) : Bool := b.getLsbD (7 - c)

/-- One pixel: the collision test on the old cell, then the XOR (rules R163, R165). -/
def drawPixel (d : Draw) (k : Nat) (bit : Bool) : Draw :=
  ⟨d.fb.put k (d.fb.get k ^^ bit), d.hit || (d.fb.get k && bit)⟩

/-- The column loop of one row from column offset `c` on, at most `n` more columns; a column past 63 ends the row
(rule R164). -/
def drawCols (b : Byte) (row x0 : Nat) : (n : Nat) → (c : Nat) → Draw → Draw
  | 0, _, d => d
  | n + 1, c, d =>
    if x0 + c > 63 then d
    else drawCols b row x0 n (c + 1) (drawPixel d (cellIndex row (x0 + c)) (spriteBit b c))

/-- One row: the 8 column offsets (rule R164). -/
def drawRow (b : Byte) (row x0 : Nat) (d : Draw) : Draw := drawCols b row x0 8 0 d

/-- What the vertical rule says of the row number `y0 + r` (rule R166). -/
inductive RowRule where
  /-- The row is drawn at this framebuffer row. -/
  | draw (row : Nat)
  /-- The draw ends before this row. -/
  | stop
  /-- The row raises VerticalOverflow. -/
  | overflow
deriving DecidableEq, Repr

/-- The vertical rule (rule R166). -/
def rowRule (mode : VerticalMode) (y : Nat) : RowRule :=
  if y < fbHeight then .draw y
  else match mode with
    | .clip => .stop
    | .wrap => .draw (y % fbHeight)
    | .fault => .overflow

/-- The row loop of rule R160 from row offset `r` on, `n` more rows. For each row the vertical rule comes first, then
the byte is read, then the row is drawn (decision D24, log entry 13). -/
def drawRows (s : State) (x0 y0 : Nat) : (n : Nat) → (r : Nat) → Draw → Except FaultReason Draw
  | 0, _, d => .ok d
  | n + 1, r, d =>
    match rowRule s.cfg.verticalMode (y0 + r) with
    | .stop => .ok d
    | .overflow => .error (.verticalOverflow (y0 + r))
    | .draw row =>
      match memReadEff s (s.I.toNat + r) with
      | .error e => .error e
      | .ok b => drawRows s x0 y0 n (r + 1) (drawRow b row x0 d)

/-- DRW Vx, Vy, nibble (rule R160). Both origins are read before any cell or x[15] is written (rule R161). -/
def execDrw (vx vy : Reg) (h : Nibble) (s : State) : Host.Outcome State Fault Refusal :=
  match drawRows s (originX s vx) (originY s vy) h.toNat 0 ⟨s.fb, false⟩ with
  | .error r => raise s r
  | .ok d => .next (markChanged (writeCollision ((beginTick s).setFb d.fb) d.hit))

end Sys2Proof.Machine
end

