-- ==== Sys2Proof/Machine/UnknownOpcode.lean ====
section
/-! DEFINITION. The unknown-opcode arm, families 0x2, 0x3, 0x4, 0x5, 0x8, 0x9, 0xB, 0xC, 0xE and 0xF:
44_unknown_opcode.md. -/

namespace Sys2Proof.Machine

/-- The 12-bit address an instruction was fetched from, `a0 = EffAddr(pc)` (40_engine.md rule R111), for a fetch that
did not raise: under wrap the reduction is modulo 4096, under fault `pc` is below 4096 already (log entry 10). -/
def fetchAddr (s : State) : Addr12 := s.pc.setWidth 12

/-- The unknown-opcode condition (rule R190): the report, and nothing else but the tick's common prefix. -/
def unknownOpcode (w : Word) (s : State) : Host.Outcome State Fault Refusal :=
  .next (reportUnknown (beginTick s) w (fetchAddr s))

/-- UNKNOWN_2 (rule R190): the reported word is 0x2 and the ignored bits. -/
def execUnknown2 (ignored : BitVec 12) (s : State) : Host.Outcome State Fault Refusal :=
  unknownOpcode (0x2#4 ++ ignored) s

/-- UNKNOWN_3 (rule R190): the reported word is 0x3 and the ignored bits. -/
def execUnknown3 (ignored : BitVec 12) (s : State) : Host.Outcome State Fault Refusal :=
  unknownOpcode (0x3#4 ++ ignored) s

/-- UNKNOWN_4 (rule R190): the reported word is 0x4 and the ignored bits. -/
def execUnknown4 (ignored : BitVec 12) (s : State) : Host.Outcome State Fault Refusal :=
  unknownOpcode (0x4#4 ++ ignored) s

/-- UNKNOWN_5 (rule R190): the reported word is 0x5 and the ignored bits. -/
def execUnknown5 (ignored : BitVec 12) (s : State) : Host.Outcome State Fault Refusal :=
  unknownOpcode (0x5#4 ++ ignored) s

/-- UNKNOWN_8 (rule R190): the reported word is 0x8 and the ignored bits. -/
def execUnknown8 (ignored : BitVec 12) (s : State) : Host.Outcome State Fault Refusal :=
  unknownOpcode (0x8#4 ++ ignored) s

/-- UNKNOWN_9 (rule R190): the reported word is 0x9 and the ignored bits. -/
def execUnknown9 (ignored : BitVec 12) (s : State) : Host.Outcome State Fault Refusal :=
  unknownOpcode (0x9#4 ++ ignored) s

/-- UNKNOWN_B (rule R190): the reported word is 0xB and the ignored bits. -/
def execUnknownB (ignored : BitVec 12) (s : State) : Host.Outcome State Fault Refusal :=
  unknownOpcode (0xB#4 ++ ignored) s

/-- UNKNOWN_C (rule R190): the reported word is 0xC and the ignored bits. -/
def execUnknownC (ignored : BitVec 12) (s : State) : Host.Outcome State Fault Refusal :=
  unknownOpcode (0xC#4 ++ ignored) s

/-- UNKNOWN_E (rule R190): the reported word is 0xE and the ignored bits. -/
def execUnknownE (ignored : BitVec 12) (s : State) : Host.Outcome State Fault Refusal :=
  unknownOpcode (0xE#4 ++ ignored) s

/-- UNKNOWN_F (rule R190): the reported word is 0xF and the ignored bits. -/
def execUnknownF (ignored : BitVec 12) (s : State) : Host.Outcome State Fault Refusal :=
  unknownOpcode (0xF#4 ++ ignored) s

end Sys2Proof.Machine
end

