-- ==== Sys2Proof/Machine/Dispatch.lean ====
section
/-! DEFINITION. The dispatch: one arm per constructor of Instr, each one direct call of its meaning (30_encoding.md
rule R94). -/

namespace Sys2Proof.Machine

def exec (i : Instr) (s : State) : Host.Outcome State Fault Refusal :=
  match i with
  | .cls b => Sys2Proof.Machine.execCls b s
  | .jp nnn => Sys2Proof.Machine.execJp nnn s
  | .unknown2 b => Sys2Proof.Machine.execUnknown2 b s
  | .unknown3 b => Sys2Proof.Machine.execUnknown3 b s
  | .unknown4 b => Sys2Proof.Machine.execUnknown4 b s
  | .unknown5 b => Sys2Proof.Machine.execUnknown5 b s
  | .ldVByte x kk => Sys2Proof.Machine.execLdVByte x kk s
  | .addVByte x kk => Sys2Proof.Machine.execAddVByte x kk s
  | .unknown8 b => Sys2Proof.Machine.execUnknown8 b s
  | .unknown9 b => Sys2Proof.Machine.execUnknown9 b s
  | .ldIAddr nnn => Sys2Proof.Machine.execLdIAddr nnn s
  | .unknownB b => Sys2Proof.Machine.execUnknownB b s
  | .unknownC b => Sys2Proof.Machine.execUnknownC b s
  | .drw x y n => Sys2Proof.Machine.execDrw x y n s
  | .unknownE b => Sys2Proof.Machine.execUnknownE b s
  | .unknownF b => Sys2Proof.Machine.execUnknownF b s

end Sys2Proof.Machine
end

