-- ==== Sys2Proof/Machine/Tick.lean ====
section
/-! DEFINITION. The fetch and the tick (40_engine.md rules R110 to R122). -/

namespace Sys2Proof.Machine

/-- Fetch (rule R111): both addresses are reduced first, `a0` before `a1`, then the two bytes are read, the byte at
`pc` being the high one (20_memory.md rule R62). -/
def fetch (s : State) : Except FaultReason Word :=
  match effAddr s.cfg s.pc.toNat with
  | .error r => .error r
  | .ok a0 =>
    match effAddr s.cfg (s.pc.toNat + 1) with
    | .error r => .error r
    | .ok a1 =>
      match memRead s a0 with
      | .error r => .error r
      | .ok hi =>
        match memRead s a1 with
        | .error r => .error r
        | .ok lo => .ok (catBytes hi lo)

/-- The tick (rule R114): a faulted CORE has none (rule R120); a raise in the fetch or in the arm ends it (rule R116).
The common prefix is the first thing every arm's meaning does. -/
def tick (s : State) : Host.Outcome State Fault Refusal :=
  match s.faulted with
  | some r => .fault (.faultedCore r)
  | none =>
    match fetch s with
    | .error r => raise s r
    | .ok w => exec (decode w) s

/-- Put the bytes of a word where the next fetch reads them: at `pc mod 4096` and `(pc + 1) mod 4096` (rule R111). -/
def placeAtPc (s : State) (w : Word) : State :=
  s.setMem
    (Memory.write s.cfg (Memory.write s.cfg s.mem (s.pc.toNat % memSize) (w.extractLsb' 8 8))
      ((s.pc.toNat + 1) % memSize) (w.extractLsb' 0 8))

end Sys2Proof.Machine
end

