-- ==== Sys2Proof/Machine/Step.lean ====
section
/-! DEFINITION. The step of the machine: one Tick (70_reset_and_hazards.md rule R238). -/

namespace Sys2Proof.Machine

/-- One step is one Tick, the sole per-step entry point (rule R238). -/
def step (s : State) : Host.Outcome State Fault Refusal := tick s

/-- `s` with the instruction whose word is the number `w`, of `nbits` bits, standing where the next tick fetches. It
stands for the Load that brings a program into memory (log entry 17); nothing but two bytes of memory changes. -/
def State.withFetchWord (s : State) (nbits w : Nat) : State := placeAtPc s (BitVec.ofNat 16 (w % 2 ^ nbits))

end Sys2Proof.Machine
end

