-- ==== Sys2Proof/Machine/HostActions.lean ====
section
/-! DEFINITION. The host interface: the actions of 70_reset_and_hazards.md rule R234, each atomic, and runs of them
(rule R236). `step` is the action Tick; the other actions happen between ticks (rule R235). -/

namespace Sys2Proof.Machine

/-- A host action (rule R234). The host has no action that writes the framebuffer (rule R237, decision D26). -/
inductive HostAction where
  | construct (p : Params)
  | load (data : List Byte)
  | reset
  | tick
  | readFramebuffer
  | timerTick
deriving DecidableEq, Repr

/-- What the CORE returns (rule R234, column "CORE returns"). -/
inductive Response where
  /-- Construct, Reset and TimerTick return nothing but the CORE itself. -/
  | done
  /-- Load: Ok. -/
  | loadOk
  /-- Load: Error RomTooLarge. -/
  | romTooLarge
  /-- Tick: `changed` and `diag`. -/
  | ticked (o : TickOutput)
  /-- Tick: a fault. -/
  | tickFaulted (r : FaultReason)
  /-- ReadFramebuffer: a copy of the 2048 cells. -/
  | framebuffer (cells : Framebuffer)
deriving DecidableEq, Repr

/-- A reportable event (60_exceptions.md rule R201), with the value it records. -/
inductive Event where
  | romTooLarge
  | unknownOpcode (d : Diag)
  | modelFault (r : FaultReason)
deriving DecidableEq, Repr

/-- The event's code. DESIGN CHOICE of the spec (decision D19, rule R201). -/
def Event.code : Event → Nat
  | .romTooLarge => 1
  | .unknownOpcode _ => 2
  | .modelFault (.addressFault _) => 3
  | .modelFault (.verticalOverflow _) => 4

/-- The event a response reports, if any (rule R201). -/
def Response.event : Response → Option Event
  | .done => none
  | .loadOk => none
  | .romTooLarge => some .romTooLarge
  | .ticked o => o.diag.map .unknownOpcode
  | .tickFaulted r => some (.modelFault r)
  | .framebuffer _ => none

/-- What an action ends in: the CORE after it and the response, or why it has none. -/
abbrev ActionResult := Host.Outcome (State × Response) Fault Refusal

/-- Reset (rule R231): `mem`, `fb` and `faulted` are unchanged (log entry 15). -/
def hostReset (s : State) : State :=
  ((((s.setX (Vector.replicate 16 startupReg)).setI startupIndex).setPc startupPc).setTimers startupTimer
    startupTimer).setStarted false

/-- Load (20_memory.md rules R70, R72): a meaning only when nothing is faulted and no tick has run since construction
or reset; a sequence that does not fit is rejected whole. -/
def hostLoad (data : List Byte) (s : State) : ActionResult :=
  match s.faulted with
  | some _ => .refused .loadWhileFaulted
  | none =>
    if s.started then .refused .loadAfterStart
    else if romFits data then .next (s.setMem (Memory.writeBytes s.cfg s.mem romStart data), .loadOk)
    else .next (s, .romTooLarge)

/-- A timer's countdown: down to zero, never below (rule R240). -/
def countDown (t : Byte) : Byte := if t.toNat > 0 then t - 1#8 else t

/-- TimerTick (rule R240): it exists only when TIMER_DECREMENT is true. -/
def hostTimerTick (s : State) : ActionResult :=
  if s.cfg.timerDecrement then .next (s.setTimers (countDown s.dt) (countDown s.st), .done)
  else .refused .noTimerTick

/-- What Tick returns, read off the state after it (rules R116, R117). -/
def tickResponse (t : State) : Response :=
  match t.out with
  | some o => .ticked o
  | none =>
    match t.faulted with
    | some r => .tickFaulted r
    | none => .done

/-- Tick as a host action (rule R238). -/
def hostTick (s : State) : ActionResult :=
  match step s with
  | .next t => .next (t, tickResponse t)
  | .fault f => .fault f
  | .refused r => .refused r

/-- ReadFramebuffer (rule R239): a copy of the cells; no state changes. -/
def hostRead (s : State) : ActionResult := .next (s, .framebuffer s.fb)

/-- One host action on a CORE (rule R234). -/
def hostStep (a : HostAction) (s : State) : ActionResult :=
  match a with
  | .construct p => .next (State.construct p, .done)
  | .load data => hostLoad data s
  | .reset => .next (hostReset s, .done)
  | .tick => hostTick s
  | .readFramebuffer => hostRead s
  | .timerTick => hostTimerTick s

/-- Whether the run stands after a rejected Load: set by RomTooLarge, cleared by a Load that is accepted and by a new
construction, kept by every other action (rule R237; log entry 12). -/
def rejectedAfter (rejected : Bool) (a : HostAction) (r : Response) : Bool :=
  match a with
  | .construct _ => false
  | .load _ => decide (r = .romTooLarge)
  | .reset => rejected
  | .tick => rejected
  | .readFramebuffer => rejected
  | .timerTick => rejected

/-- A Tick that the host must not call, because a Load was rejected (rule R237). -/
def undutifulTick (rejected : Bool) (a : HostAction) : Bool := rejected && decide (a = .tick)

/-- A run: a finite sequence of host actions (rule R236; log entry 21). A Tick after a rejected Load has no meaning (rule R237). -/
def runActions (rejected : Bool) : List HostAction → State → Host.Outcome State Fault Refusal
  | [], s => .next s
  | a :: rest, s =>
    if undutifulTick rejected a then .refused .tickAfterRejectedLoad
    else match hostStep a s with
      | .next (t, r) => runActions (rejectedAfter rejected a r) rest t
      | .fault f => .fault f
      | .refused r => .refused r

end Sys2Proof.Machine
end

