-- ==== Sys2Proof/Machine/Listing.lean ====
section
/-! DEFINITION. Listings: the assembler syntax of 30_encoding.md rules R99 and R100, as structured lines (log entry
14). It adds no behaviour to the CORE: it only says which bytes a listing stands for. -/

namespace Sys2Proof.Machine

/-- The `addr` of JP and LD I: a 12-bit number or a label (rule R99). -/
inductive AddrOperand where
  | num (a : Addr12)
  | label (name : String)
deriving DecidableEq, Repr

/-- A line of a listing (rules R99, R100). -/
inductive Line where
  | cls
  | jp (addr : AddrOperand)
  | ldV (x : Reg) (kk : Byte)
  | addV (x : Reg) (kk : Byte)
  | ldI (addr : AddrOperand)
  | drw (x y : Reg) (n : Nibble)
  /-- A raw word of an unknown family. -/
  | unk (w : Word)
  /-- The directive DB: the given bytes in order. -/
  | db (bytes : List Byte)
  /-- `name:` — its value is the address of the next emitted byte. -/
  | labelDef (name : String)
deriving DecidableEq, Repr

/-- How many bytes a line emits. -/
def Line.size : Line → Nat
  | .cls => 2
  | .jp _ => 2
  | .ldV _ _ => 2
  | .addV _ _ => 2
  | .ldI _ => 2
  | .drw _ _ _ => 2
  | .unk _ => 2
  | .db bytes => bytes.length
  | .labelDef _ => 0

/-- The value of a label in a listing whose first byte is emitted at `at0`. -/
def labelValue (name : String) : (at0 : Nat) → List Line → Option Nat
  | _, [] => none
  | a, .labelDef n :: rest => if n = name then some a else labelValue name a rest
  | a, l :: rest => labelValue name (a + l.size) rest

/-- The value of an address operand; a label's value must fit the 12-bit field. -/
def AddrOperand.value (base : Nat) (all : List Line) : AddrOperand → Option Addr12
  | .num a => some a
  | .label n =>
    match labelValue n base all with
    | some v => if v < 4096 then some (BitVec.ofNat 12 v) else none
    | none => none

/-- The families that have no handler (rule R97). -/
def unknownFamily (op : Nibble) : Bool :=
  decide (op ∈ [0x2#4, 0x3#4, 0x4#4, 0x5#4, 0x8#4, 0x9#4, 0xB#4, 0xC#4, 0xE#4, 0xF#4])

/-- The bytes of one line. CLS is emitted as 0x00E0; UNK is accepted for a word of an unknown family only (rule
R99). -/
def Line.emit (base : Nat) (all : List Line) : Line → Option (List Byte)
  | .cls => some (encodeBytes (.cls 0x0E0#12))
  | .jp a => (a.value base all).map fun v => encodeBytes (.jp v)
  | .ldV x kk => some (encodeBytes (.ldVByte x kk))
  | .addV x kk => some (encodeBytes (.addVByte x kk))
  | .ldI a => (a.value base all).map fun v => encodeBytes (.ldIAddr v)
  | .drw x y n => some (encodeBytes (.drw x y n))
  | .unk w => if unknownFamily (opField w) then some (wordBytes w) else none
  | .db bytes => some bytes
  | .labelDef _ => some []

/-- The bytes of the lines `ls` of the listing `all`. -/
def emitLines (base : Nat) (all : List Line) : List Line → Option (List Byte)
  | [] => some []
  | l :: rest =>
    match l.emit base all, emitLines base all rest with
    | some b, some bs => some (b ++ bs)
    | _, _ => none

/-- Assemble a listing whose first byte is emitted at `base`. -/
def assemble (base : Nat) (ls : List Line) : Option (List Byte) := emitLines base ls ls

/-- Disassemble a word: CLS for every word of family 0x0, `UNK word` for every unknown family (rule R99). -/
def disassemble (w : Word) : Line :=
  match decode w with
  | .cls _ => .cls
  | .jp nnn => .jp (.num nnn)
  | .unknown2 _ => .unk w
  | .unknown3 _ => .unk w
  | .unknown4 _ => .unk w
  | .unknown5 _ => .unk w
  | .ldVByte x kk => .ldV x kk
  | .addVByte x kk => .addV x kk
  | .unknown8 _ => .unk w
  | .unknown9 _ => .unk w
  | .ldIAddr nnn => .ldI (.num nnn)
  | .unknownB _ => .unk w
  | .unknownC _ => .unk w
  | .drw x y n => .drw x y n
  | .unknownE _ => .unk w
  | .unknownF _ => .unk w

/-- One hexadecimal digit. -/
def hexDigit (n : Nibble) : String := (["0", "1", "2", "3", "4", "5", "6", "7", "8", "9", "A", "B", "C", "D", "E", "F"][n.toNat]?).getD "?"

/-- A register's name, `V0` to `VF` (rule R99). -/
def regName (x : Reg) : String := "V" ++ hexDigit x

/-- A byte as a hexadecimal number with its `0x` prefix. -/
def byteText (b : Byte) : String := "0x" ++ hexDigit (b.extractLsb' 4 4) ++ hexDigit (b.extractLsb' 0 4)

/-- A word as a hexadecimal number with its `0x` prefix. -/
def wordText (w : Word) : String :=
  "0x" ++ hexDigit (opField w) ++ hexDigit (n1Field w) ++ hexDigit (n2Field w) ++ hexDigit (n3Field w)

/-- An address operand's text: a number or a label. -/
def AddrOperand.text : AddrOperand → String
  | .num a => "0x" ++ hexDigit (a.extractLsb' 8 4) ++ hexDigit (a.extractLsb' 4 4) ++ hexDigit (a.extractLsb' 0 4)
  | .label n => n

/-- The bytes of a DB directive, separated by commas. -/
def bytesText : List Byte → String
  | [] => ""
  | [b] => byteText b
  | b :: rest => byteText b ++ ", " ++ bytesText rest

/-- The text of a line (rule R99). -/
def Line.text : Line → String
  | .cls => "CLS"
  | .jp a => "JP " ++ a.text
  | .ldV x kk => "LD " ++ regName x ++ ", " ++ byteText kk
  | .addV x kk => "ADD " ++ regName x ++ ", " ++ byteText kk
  | .ldI a => "LD I, " ++ a.text
  | .drw x y n => "DRW " ++ regName x ++ ", " ++ regName y ++ ", 0x" ++ hexDigit n
  | .unk w => "UNK " ++ wordText w
  | .db bytes => "DB " ++ bytesText bytes
  | .labelDef n => n ++ ":"

end Sys2Proof.Machine
end

