-- ==== Sys2Proof/Safety.lean ====
section
/-! DEFINITION. What claims about the CORE speak of: its invariant, what a tick never touches, the picture a sprite
draw makes, and the good end of a run. -/

namespace Sys2Proof.Machine

/-- Which model faults a choice of parameters lets happen (60_exceptions.md rule R201): under the defaults, none. -/
def faultPossible (p : Params) : FaultReason → Bool
  | .addressFault a => decide (p.addrOverflow = .fault) && decide (memSize ≤ a)
  | .verticalOverflow y => decide (p.verticalMode = .fault) && decide (fbHeight ≤ y)

/-- What holds of a constructed CORE and is kept by every tick and every host action. -/
structure State.Inv (s : State) : Prop where
  /-- The memory list has its canonical form. -/
  memWf : Memory.wf s.cfg s.mem = true
  /-- Nothing below the ROM start differs from its construction value (20_memory.md rule R68). -/
  romOnly : ∀ e ∈ s.mem, romStart ≤ e.1
  /-- The index register's bits 15 to 12 are 0 (10_state.md rule R39). -/
  indexIn : s.I.toNat < memSize
  /-- The timers do not move while TIMER_DECREMENT is false (10_state.md rule R40). -/
  timersStill : s.cfg.timerDecrement = false → s.dt = startupTimer ∧ s.st = startupTimer
  /-- A recorded fault is one the parameters let happen (60_exceptions.md rule R201). -/
  faultExplained : ∀ r, s.faulted = some r → faultPossible s.cfg r = true
  /-- A faulted CORE's last tick returned nothing (40_engine.md rule R116). -/
  faultSilent : s.faulted ≠ none → s.out = none
  /-- A diagnostic names a word of an unknown family, and its tick returned `changed = false` (44_unknown_opcode.md
  rule R190). -/
  diagUnknown : ∀ o d, s.out = some o → o.diag = some d → unknownFamily (opField d.word) = true ∧ o.changed = false

/-- What no tick that completes touches: every byte of memory, the timers, the parameters and the `faulted` mark
(20_memory.md rule R63, 10_state.md rules R40, R42). -/
structure QuietFrame (s t : State) : Prop where
  bytes : ∀ a, t.byteAt a = s.byteAt a
  dt : t.dt = s.dt
  st : t.st = s.st
  cfg : t.cfg = s.cfg
  faulted : t.faulted = s.faulted

/-- Every general register reads as before. -/
def SameRegs (s t : State) : Prop := ∀ j, readReg t j = readReg s j

/-- Every framebuffer cell reads as before. -/
def SameCells (s t : State) : Prop := ∀ row col, row < fbHeight → col < fbWidth → t.cell row col = s.cell row col

/-- Row offset `r` of a sprite whose origin row is `y0` is drawn at a framebuffer row at all: always under
VERTICAL_MODE = wrap, else only when it is inside the frame (43_sprite_draw.md rule R166). -/
def rowDrawn (s : State) (y0 r : Nat) : Bool := decide (s.cfg.verticalMode = .wrap) || decide (y0 + r < fbHeight)

/-- When a DRW raises nothing (43_sprite_draw.md rules R162, R166): at the default parameters, always. -/
def DrwRuns (s : State) (vy : Reg) (h : Nibble) : Prop :=
  (s.cfg.verticalMode = .fault → originY s vy + h.toNat ≤ fbHeight) ∧
  (s.cfg.addrOverflow = .fault →
    ∀ r, r < h.toNat → rowDrawn s (originY s vy) r = true → s.I.toNat + r < memSize)

/-- The sprite row that falls on framebuffer row `row` (43_sprite_draw.md rule R166). -/
def spriteRowAt (y0 row : Nat) : Nat := (row + fbHeight - y0) % fbHeight

/-- The sprite covers framebuffer row `row` with one of its `h` rows: the row at or below the origin, or, under wrap,
around the bottom edge (43_sprite_draw.md rule R166). -/
def rowCovered (s : State) (y0 h row : Nat) : Bool :=
  decide (spriteRowAt y0 row < h) && (decide (s.cfg.verticalMode = .wrap) || decide (y0 ≤ row))

/-- The sprite's picture on the 64 × 32 frame, said without any loop: the bit that a DRW XORs into cell (`col`,
`row`). The origin wraps, the columns clip at 63, the rows follow VERTICAL_MODE, and row r of the sprite is the byte
at (I + r) mod 4096, most significant bit leftmost (43_sprite_draw.md rules R161 to R166). -/
def spritePixel (s : State) (vx vy : Reg) (h : Nibble) (row col : Nat) : Bool :=
  rowCovered s (originY s vy) h.toNat row &&
  (decide (originX s vx ≤ col) && (decide (col < originX s vx + 8) &&
    spriteBit (s.byteAt ((s.I.toNat + spriteRowAt (originY s vy) row) % memSize)) (col - originX s vx)))

/-- Some pixel of value 1 of the sprite falls on a cell that holds 1 (43_sprite_draw.md rule R165). -/
def Collides (s : State) (vx vy : Reg) (h : Nibble) : Prop :=
  ∃ row col, row < fbHeight ∧ col < fbWidth ∧ s.cell row col = true ∧ spritePixel s vx vy h row col = true

/-- The end of a run is good when no fault is recorded (70_reset_and_hazards.md rule R236). -/
def State.goodEnd (s : State) : Bool := decide (s.faulted = none)

/-- A fixed point of Tick, by which a program says that it has stopped (70_reset_and_hazards.md rule R236). -/
def State.stopped (s : State) : Prop := step s = .next s

end Sys2Proof.Machine
end

