-- ==== Sys2Proof/Certificates/Slice0/Obligations.lean ====
section
/-! DEFINITION. The statements for the provers. OBLIGATIONS.json lists them with their titles and sources. A statement
that rests on a choice of the spec (a decision D<n>) or of the model (a log entry) says so. -/

open Sys2Proof Sys2Proof.Machine

/-! ### Encoding -/

/-- Decoding the bytes of any well-formed instruction gives it back, and the bytes after it (30_encoding.md). -/
def Obligations.DecodeInvertsEncode : Prop :=
  ∀ (i : Instr) (rest : List Byte), i.wellFormed = true → decodeBytes (encodeBytes i ++ rest) = .ok (i, rest)

/-- Every one of the 65536 words is the word of the instruction it decodes to (30_encoding.md). -/
def Obligations.EncodeInvertsDecode : Prop := ∀ w : Word, encode (decode w) = w

/-- Every word matches exactly one row of the encoding table, that of the instruction it decodes to (30_encoding.md
section 3). -/
def Obligations.EveryWordMatchesItsRowOnly : Prop :=
  ∀ w : Word, (opcodeTable.filter fun row => row.matches w).map OpcodeRow.mnemonic = [(decode w).mnemonic]

/-- The 16-way selection on `w[15:12]` alone (rule R94). -/
def Obligations.DispatchSelectsOnTopNibble : Prop :=
  ∀ w : Word,
    (w.extractLsb' 12 4 = 0x0#4 → decode w = .cls (w.extractLsb' 0 12)) ∧
    (w.extractLsb' 12 4 = 0x1#4 → decode w = .jp (w.extractLsb' 0 12)) ∧
    (w.extractLsb' 12 4 = 0x2#4 → decode w = .unknown2 (w.extractLsb' 0 12)) ∧
    (w.extractLsb' 12 4 = 0x3#4 → decode w = .unknown3 (w.extractLsb' 0 12)) ∧
    (w.extractLsb' 12 4 = 0x4#4 → decode w = .unknown4 (w.extractLsb' 0 12)) ∧
    (w.extractLsb' 12 4 = 0x5#4 → decode w = .unknown5 (w.extractLsb' 0 12)) ∧
    (w.extractLsb' 12 4 = 0x6#4 → decode w = .ldVByte (w.extractLsb' 8 4) (w.extractLsb' 0 8)) ∧
    (w.extractLsb' 12 4 = 0x7#4 → decode w = .addVByte (w.extractLsb' 8 4) (w.extractLsb' 0 8)) ∧
    (w.extractLsb' 12 4 = 0x8#4 → decode w = .unknown8 (w.extractLsb' 0 12)) ∧
    (w.extractLsb' 12 4 = 0x9#4 → decode w = .unknown9 (w.extractLsb' 0 12)) ∧
    (w.extractLsb' 12 4 = 0xA#4 → decode w = .ldIAddr (w.extractLsb' 0 12)) ∧
    (w.extractLsb' 12 4 = 0xB#4 → decode w = .unknownB (w.extractLsb' 0 12)) ∧
    (w.extractLsb' 12 4 = 0xC#4 → decode w = .unknownC (w.extractLsb' 0 12)) ∧
    (w.extractLsb' 12 4 = 0xD#4 →
      decode w = .drw (w.extractLsb' 8 4) (w.extractLsb' 4 4) (w.extractLsb' 0 4)) ∧
    (w.extractLsb' 12 4 = 0xE#4 → decode w = .unknownE (w.extractLsb' 0 12)) ∧
    (w.extractLsb' 12 4 = 0xF#4 → decode w = .unknownF (w.extractLsb' 0 12))

/-- The words of seven test vectors, CLS-1, JP-1, LDV-1, ADD-1, LDI-1, DRW-10 and UNK-8, decode to what they stand for
(95_test_vectors.md; 30_encoding.md section 3). -/
def Obligations.SpecWordsDecode : Prop :=
  decodeBytes [0x00#8, 0xE0#8] = .ok (.cls 0x0E0#12, []) ∧
  decodeBytes [0x12#8, 0xA4#8] = .ok (.jp 0x2A4#12, []) ∧
  decodeBytes [0x6A#8, 0x12#8] = .ok (.ldVByte 10#4 0x12#8, []) ∧
  decodeBytes [0x70#8, 0x01#8] = .ok (.addVByte 0#4 0x01#8, []) ∧
  decodeBytes [0xA0#8, 0x50#8] = .ok (.ldIAddr 0x050#12, []) ∧
  decodeBytes [0xDF#8, 0x11#8] = .ok (.drw 15#4 1#4 1#4, []) ∧
  decodeBytes [0x81#8, 0x23#8] = .ok (.unknown8 0x123#12, [])

/-- A listing of the line that disassembles a word assembles back to the word, but that every word of family 0x0
prints as CLS and is emitted as 0x00E0. The syntax is the spec's choice (decision D2) and log entry 14. -/
def Obligations.ListingRoundTrip : Prop :=
  ∀ (base : Nat) (w : Word),
    assemble base [disassemble w] = some (if opField w = 0x0#4 then [0x00#8, 0xE0#8] else wordBytes w)

/-! ### Fetch, step and faults -/

/-- The byte at `pc` is bits 15 to 8 of the fetched word and the byte at `pc + 1` bits 7 to 0 (rule R62). -/
def Obligations.FetchReadsBigEndian : Prop :=
  ∀ s : State, s.pc.toNat + 1 < memSize →
    ∃ w, fetch s = .ok w ∧ w.extractLsb' 8 8 = s.byteAt s.pc.toNat ∧ w.extractLsb' 0 8 = s.byteAt (s.pc.toNat + 1)

/-- Under ADDR_OVERFLOW = wrap the fetch reads at `pc mod 4096` and `(pc + 1) mod 4096`, at every `pc`. The parameter
is the spec's choice (decision D6). -/
def Obligations.FetchWrapsModuloMemory : Prop :=
  ∀ s : State, s.cfg.addrOverflow = .wrap →
    fetch s = .ok (s.byteAt (s.pc.toNat % 4096) ++ s.byteAt ((s.pc.toNat + 1) % 4096))

/-- When the bytes at the program counter decode to a well-formed instruction, the step is that instruction on that
state: the tick adds nothing around it (40_engine.md section 1; log entry 16). -/
def Obligations.StepRunsTheDecodedInstruction : Prop :=
  ∀ (s : State) (i : Instr), s.faulted = none →
    (s.cfg.addrOverflow = .fault → s.pc.toNat + 1 < memSize) →
    decodeBytes [s.byteAt (s.pc.toNat % memSize), s.byteAt ((s.pc.toNat + 1) % memSize)] = .ok (i, []) →
    i.wellFormed = true → step s = exec i s

/-- Under ADDR_OVERFLOW = fault a fetch that leaves the space raises AddressFault for the first address past it, and
the state before the tick is kept with the mark (decisions D6 and D25, log entry 3). -/
def Obligations.FetchPastTheTopRaises : Prop :=
  ∀ s : State, s.faulted = none → s.cfg.addrOverflow = .fault → memSize ≤ s.pc.toNat + 1 →
    step s = .next { s with
      faulted := some (.addressFault (if memSize ≤ s.pc.toNat then s.pc.toNat else s.pc.toNat + 1)), out := none }

/-- A faulted CORE has no tick (decision D25). -/
def Obligations.FaultedCoreHasNoTick : Prop :=
  ∀ (s : State) (r : FaultReason), s.faulted = some r → step s = .fault (.faultedCore r)

/-- A tick that raises keeps nothing but the mark: the state after it is the state before it with `faulted` set, no
output is returned, and the reason is one the parameters let happen (decision D25, log entry 3). -/
def Obligations.RaisedTickKeepsTheStateBefore : Prop :=
  ∀ (s t : State) (r : FaultReason), s.faulted = none → step s = .next t → t.faulted = some r →
    t = { s with faulted := some r, out := none } ∧ faultPossible s.cfg r = true

/-- With ADDR_OVERFLOW = wrap and VERTICAL_MODE not fault (the defaults), every tick of a CORE that is not faulted
completes and returns an output (decisions D6, D11). -/
def Obligations.DefaultsNeverRaise : Prop :=
  ∀ s : State, s.faulted = none → s.cfg.addrOverflow = .wrap → s.cfg.verticalMode ≠ .fault →
    ∃ t o, step s = .next t ∧ t.faulted = none ∧ t.out = some o

/-! ### Invariants -/

/-- Every tick keeps the invariant of the CORE. Its fault clauses rest on decision D25 (log entry 3), its timers' value
0 on decision D3 (log entry 4), and the outputs field is the model's own (log entry 2). -/
def Obligations.EveryTickKeepsTheInvariant : Prop := ∀ s t : State, s.Inv → step s = .next t → t.Inv

/-- Every host action keeps the invariant of the CORE, Load among them. The actions are the spec's definition of the
interface (decision D1); the invariant rests on the choices named above. -/
def Obligations.EveryHostActionKeepsTheInvariant : Prop :=
  ∀ (a : HostAction) (s t : State) (r : Response), s.Inv → hostStep a s = .next (t, r) → t.Inv

/-- The state right after reset meets the invariant. Its zeros are the spec's choice (decisions D3, D4; log entries 4
and 5). -/
def Obligations.ResetMeetsTheInvariant : Prop := State.reset.Inv

/-- A freshly constructed CORE meets the invariant, for every choice of the parameters. Its zeros are the spec's choice
(decisions D3, D4; log entries 4 and 5). -/
def Obligations.ConstructionMeetsTheInvariant : Prop := ∀ p : Params, (State.construct p).Inv

/-! ### The instructions: result, frame and completion -/

/-- CLS (rule R130): every cell is 0 and `changed` is true, whatever the buffer and the low 12 bits of the word. -/
def Obligations.ClsClearsAnyFramebuffer : Prop :=
  (∀ w : Word, w &&& 0xF000#16 = 0x0000#16 → decode w = .cls (w.extractLsb' 0 12)) ∧
  ∀ (ignored : BitVec 12) (s : State), ∃ t, exec (.cls ignored) s = .next t ∧
    (∀ k, k < fbCells → t.fb.get k = false) ∧ t.out = some ⟨true, none⟩ ∧
    SameRegs s t ∧ t.I = s.I ∧ t.pc = s.pc + 2#16 ∧ t.started = true ∧ QuietFrame s t

/-- JP addr (rule R133): `pc` becomes the zero-extended address, unchecked, its bits above the address 0; a fetch at
the target faults only under ADDR_OVERFLOW = fault and only at 0xFFF; a jump to its own address changes only `started`
and the outputs. -/
def Obligations.JpSetsPcToItsAddress : Prop :=
  (∀ w : Word, w &&& 0xF000#16 = 0x1000#16 → decode w = .jp (w.extractLsb' 0 12)) ∧
  ∀ (nnn : Addr12) (s : State), ∃ t, exec (.jp nnn) s = .next t ∧
    t.pc = nnn.setWidth 16 ∧ t.pc.toNat = nnn.toNat ∧ t.pc.extractLsb' 12 4 = 0#4 ∧ t.out = some ⟨false, none⟩ ∧
    (s.pc = nnn.setWidth 16 → t = { s with started := true, out := some ⟨false, none⟩ }) ∧
    ((∃ r, fetch t = .error r) ↔ s.cfg.addrOverflow = .fault ∧ nnn = 0xFFF#12) ∧
    SameRegs s t ∧ t.I = s.I ∧ SameCells s t ∧ t.started = true ∧ QuietFrame s t

/-- LD Vx, byte (rule R140): the named register, any of the 16, holds the byte, and no other register changes. -/
def Obligations.LdVByteSetsItsRegister : Prop :=
  (∀ w : Word, w &&& 0xF000#16 = 0x6000#16 → decode w = .ldVByte (w.extractLsb' 8 4) (w.extractLsb' 0 8)) ∧
  ∀ (x : Reg) (kk : Byte) (s : State), ∃ t, exec (.ldVByte x kk) s = .next t ∧
    readReg t x = kk ∧ (∀ j, j ≠ x → readReg t j = readReg s j) ∧ t.out = some ⟨false, none⟩ ∧
    t.I = s.I ∧ SameCells s t ∧ t.pc = s.pc + 2#16 ∧ t.started = true ∧ QuietFrame s t

/-- ADD Vx, byte: the sum modulo 256 in the named register; with ADD_CARRY, then the carry in x[15], which wins when
x[15] is the named register. ADD_CARRY and the flag register are the spec's choices (decisions D10, D21). -/
def Obligations.AddVByteWrapsAndCarries : Prop :=
  ∀ (x : Reg) (kk : Byte) (s : State), ∃ t, exec (.addVByte x kk) s = .next t ∧
    ((s.cfg.addCarry = true → x ≠ 15#4) →
      (readReg t x).toNat = ((readReg s x).toNat + kk.toNat) % 256) ∧
    (s.cfg.addCarry = true → readReg t 15#4 = if (readReg s x).toNat + kk.toNat > 255 then 1#8 else 0#8) ∧
    (∀ j, j ≠ x → (s.cfg.addCarry = true → j ≠ 15#4) → readReg t j = readReg s j) ∧
    t.out = some ⟨false, none⟩ ∧ t.I = s.I ∧ SameCells s t ∧ t.pc = s.pc + 2#16 ∧ t.started = true ∧ QuietFrame s t

/-- LD I, addr (rule R143): the index register holds the zero-extended address; bits 15 to 12 become 0. -/
def Obligations.LdISetsTheIndexRegister : Prop :=
  (∀ w : Word, w &&& 0xF000#16 = 0xA000#16 → decode w = .ldIAddr (w.extractLsb' 0 12)) ∧
  ∀ (nnn : Addr12) (s : State), ∃ t, exec (.ldIAddr nnn) s = .next t ∧
    t.I = nnn.setWidth 16 ∧ t.I.toNat = nnn.toNat ∧ t.I.extractLsb' 12 4 = 0#4 ∧ t.out = some ⟨false, none⟩ ∧
    SameRegs s t ∧ SameCells s t ∧ t.pc = s.pc + 2#16 ∧ t.started = true ∧ QuietFrame s t

/-- DRW Vx, Vy, nibble against the sprite's picture said without a loop: every cell is XORed with its bit of the
picture, x[15] is 1 or 0 as the picture meets a set cell or not (with VF_COLLISION), `changed` is true, and nothing
else changes. The vertical rule, the address reduction, the flag and its register are the spec's choices (decisions
D6, D9, D11, D21; log entry 6). That a clipped row past the address space is not read, so that its DRW completes, is the
spec's choice too (decision D24, log entry 13). -/
def Obligations.DrwXorsThePicture : Prop :=
  ∀ (x y : Reg) (h : Nibble) (s : State), DrwRuns s y h → ∃ t, exec (.drw x y h) s = .next t ∧
    (∀ row col, row < fbHeight → col < fbWidth →
      t.cell row col = (s.cell row col ^^ spritePixel s x y h row col)) ∧
    (s.cfg.vfCollision = true → Collides s x y h → readReg t 15#4 = 1#8) ∧
    (s.cfg.vfCollision = true → ¬ Collides s x y h → readReg t 15#4 = 0#8) ∧
    (∀ j, (s.cfg.vfCollision = true → j ≠ 15#4) → readReg t j = readReg s j) ∧
    t.out = some ⟨true, none⟩ ∧ t.I = s.I ∧ t.pc = s.pc + 2#16 ∧ t.started = true ∧ QuietFrame s t

/-- Under VERTICAL_MODE = fault a sprite that reaches row 32 raises VerticalOverflow(32), whatever the address of that
row, when the rows before it can be read (decisions D11, D24, D25; log entries 3 and 13). -/
def Obligations.DrwPastTheBottomRaises : Prop :=
  ∀ (x y : Reg) (h : Nibble) (s : State), s.cfg.verticalMode = .fault → fbHeight < originY s y + h.toNat →
    (s.cfg.addrOverflow = .fault → ∀ r, originY s y + r < fbHeight → s.I.toNat + r < memSize) →
    exec (.drw x y h) s = .next { s with faulted := some (.verticalOverflow 32), out := none }

/-- Under ADDR_OVERFLOW = fault the first row that is drawn and lies past the space raises AddressFault for its
address (decisions D6, D24, D25; log entries 3 and 13). -/
def Obligations.DrwPastTheSpaceRaises : Prop :=
  ∀ (x y : Reg) (h : Nibble) (s : State) (r : Nat), s.cfg.addrOverflow = .fault → r < h.toNat →
    rowDrawn s (originY s y) r = true → (∀ q, q < r → s.I.toNat + q < memSize) → memSize ≤ s.I.toNat + r →
    exec (.drw x y h) s = .next { s with faulted := some (.addressFault (s.I.toNat + r)), out := none }

/-- DRW of height 0 draws nothing, reports `changed`, and with VF_COLLISION clears x[15]. Height 0 is the spec's choice
(decision D12, log entry 9). -/
def Obligations.DrwOfHeightZero : Prop :=
  ∀ (x y : Reg) (s : State), ∃ t, exec (.drw x y 0#4) s = .next t ∧ SameCells s t ∧ t.out = some ⟨true, none⟩ ∧
    (s.cfg.vfCollision = true → readReg t 15#4 = 0#8) ∧
    (∀ j, (s.cfg.vfCollision = true → j ≠ 15#4) → readReg t j = readReg s j)

/-- Every DRW that completes returns `changed = true` (rule R168). -/
def Obligations.DrwAlwaysReportsChanged : Prop :=
  ∀ (x y : Reg) (h : Nibble) (s t : State) (o : TickOutput),
    exec (.drw x y h) s = .next t → t.out = some o → o.changed = true

/-- Drawing the same sprite again, with its registers, its memory and the framebuffer as the first draw left them,
restores every cell and reports `changed`. With VF_COLLISION neither origin register may be x[15] (90_conflicts.md
C15), and the second draw's x[15] is 1 exactly when some pixel of value 1 fell on a cell that held 0 before the first
draw: section 2's "drew at least one pixel of value 1" is too weak where every such pixel met a set cell (log entry
18). The flag is the spec's choice (decisions D9, D21); that the draw raises nothing is said by the address reduction,
the vertical rule and the order of check and read, the spec's choices too (decisions D6, D11, D24; log entries 6 and
13). -/
def Obligations.DrawingTwiceRestoresTheFramebuffer : Prop :=
  ∀ (x y : Reg) (h : Nibble) (s t u : State), (s.cfg.vfCollision = true → x ≠ 15#4 ∧ y ≠ 15#4) →
    DrwRuns s y h → exec (.drw x y h) s = .next t →
    u.fb = t.fb → u.I = t.I → readReg u x = readReg t x → readReg u y = readReg t y →
    (∀ a, u.byteAt a = t.byteAt a) → u.cfg = t.cfg →
    ∃ v, exec (.drw x y h) u = .next v ∧ v.fb = s.fb ∧ v.out = some ⟨true, none⟩ ∧
      (s.cfg.vfCollision = true →
        (readReg v 15#4 = 1#8 ↔ ∃ row col, row < fbHeight ∧ col < fbWidth ∧ s.cell row col = false ∧
          spritePixel s x y h row col = true) ∧
        (readReg v 15#4 = 1#8 ∨ readReg v 15#4 = 0#8))

/-- Within one DRW no cell is visited twice, in every VERTICAL_MODE (43_sprite_draw.md section 2). The modes are the
spec's choice (decision D11). -/
def Obligations.DrawnCellsAreDistinct : Prop :=
  ∀ (mode : VerticalMode) (x0 y0 r r' c c' row row' : Nat), y0 < fbHeight → r < 15 → r' < 15 →
    x0 + c < fbWidth → x0 + c' < fbWidth →
    rowRule mode (y0 + r) = .draw row → rowRule mode (y0 + r') = .draw row' →
    cellIndex row (x0 + c) = cellIndex row' (x0 + c') → r = r' ∧ c = c'

/-- Each of the ten unknown families, at every state and every low 12 bits: the word and its 12-bit fetch address are
reported, `changed` is false, `pc` advances, and nothing else changes. The report's contents are the spec's choice
(decision D13, log entry 10). -/
def Obligations.UnknownFamiliesOnlyReport : Prop :=
  ∀ (b : BitVec 12) (s : State) (i : Instr) (w : Word),
    (i, w) ∈ [(Instr.unknown2 b, (0x2#4 ++ b : Word)), (Instr.unknown3 b, (0x3#4 ++ b : Word)),
      (Instr.unknown4 b, (0x4#4 ++ b : Word)), (Instr.unknown5 b, (0x5#4 ++ b : Word)),
      (Instr.unknown8 b, (0x8#4 ++ b : Word)), (Instr.unknown9 b, (0x9#4 ++ b : Word)),
      (Instr.unknownB b, (0xB#4 ++ b : Word)), (Instr.unknownC b, (0xC#4 ++ b : Word)),
      (Instr.unknownE b, (0xE#4 ++ b : Word)), (Instr.unknownF b, (0xF#4 ++ b : Word))] →
    ∃ t, exec i s = .next t ∧ t.out = some ⟨false, some ⟨w, BitVec.ofNat 12 (s.pc.toNat % 4096)⟩⟩ ∧
      SameRegs s t ∧ t.I = s.I ∧ SameCells s t ∧ t.pc = s.pc + 2#16 ∧ t.started = true ∧ QuietFrame s t

/-- The unknown-opcode condition does not trap and does not retry: it reports a diagnostic and is otherwise a no-op but
for the advance of `pc` (30_encoding.md section 4). Of the 65536 words none ends in a fault or a refusal of `exec`: each
returns its outputs and leaves the fault mark as it was, a DRW at least under ADDR_OVERFLOW = wrap and VERTICAL_MODE not
fault (decisions D6, D11; log entry 6); a DRW that raises under another setting answers a next state with the mark and
no outputs (decision D25, log entry 3), which is what the last clause counts. -/
def Obligations.UnknownWordsDegradeGracefully : Prop :=
  (∀ (w : Word) (s : State),
    opField w ∈ [0x2#4, 0x3#4, 0x4#4, 0x5#4, 0x8#4, 0x9#4, 0xB#4, 0xC#4, 0xE#4, 0xF#4] →
    ∃ t d, exec (decode w) s = .next t ∧ t.out = some ⟨false, some d⟩ ∧
      SameRegs s t ∧ t.I = s.I ∧ SameCells s t ∧ t.pc = s.pc + 2#16 ∧ QuietFrame s t) ∧
  (∀ (w : Word) (s : State),
    (opField w = 0xD#4 → s.cfg.addrOverflow = .wrap ∧ s.cfg.verticalMode ≠ .fault) →
    ∃ t o, exec (decode w) s = .next t ∧ t.out = some o ∧ t.faulted = s.faulted) ∧
  (∀ (w : Word) (s : State), ∃ t, exec (decode w) s = .next t)

/-! ### Whole-machine rules -/

/-- A tick's `changed` is true exactly for CLS and DRW, and its diagnostic is present exactly for an unknown family
(40_engine.md section 2; decision D13). -/
def Obligations.OutputsFollowTheArm : Prop :=
  ∀ (i : Instr) (s t : State) (o : TickOutput), exec i s = .next t → t.out = some o →
    (o.changed = true ↔ (∃ b, i = .cls b) ∨ ∃ x y h, i = .drw x y h) ∧
    (o.diag ≠ none ↔ unknownFamily i.family = true)

/-- A tick that does not report `changed = true` leaves the framebuffer as it was (40_engine.md section 2), and only a
tick of CLS or DRW changes it; of the host's actions only Tick and Construct do, and ReadFramebuffer hands out a copy
(10_state.md section 6). The copy and the framebuffer that Reset keeps are the spec's choices (decisions D26, D5; log
entry 5). -/
def Obligations.OnlyClsAndDrwMutateTheFramebuffer : Prop :=
  (∀ s t : State, step s = .next t → t.fb ≠ s.fb →
    (∃ o, t.out = some o ∧ o.changed = true) ∧
    ∃ w, fetch s = .ok w ∧ ((∃ b, decode w = .cls b) ∨ ∃ x y h, decode w = .drw x y h)) ∧
  (∀ (a : HostAction) (s t : State) (r : Response), hostStep a s = .next (t, r) → a ≠ .tick →
    (∀ p, a ≠ .construct p) → t.fb = s.fb) ∧
  (∀ s : State, hostStep .readFramebuffer s = .next (s, .framebuffer s.fb))

/-- No tick writes memory, a timer or a parameter (20_memory.md section 2; 10_state.md sections 4 and 5). -/
def Obligations.NoTickWritesMemoryTimersOrParameters : Prop :=
  ∀ s t : State, step s = .next t →
    (∀ a, t.byteAt a = s.byteAt a) ∧ t.mem = s.mem ∧ t.dt = s.dt ∧ t.st = s.st ∧ t.cfg = s.cfg

/-- Only LD I, addr writes the index register, with its 12-bit address (10_state.md section 3). -/
def Obligations.OnlyLdIWritesTheIndexRegister : Prop :=
  ∀ (i : Instr) (s t : State), exec i s = .next t → t.I ≠ s.I → ∃ nnn, i = .ldIAddr nnn ∧ t.I.toNat = nnn.toNat

/-- A general register changes only as the access table says (10_state.md section 1; decisions D9, D10, D21). -/
def Obligations.RegisterWritesFollowTheAccessTable : Prop :=
  ∀ (i : Instr) (s t : State) (j : Reg), exec i s = .next t → readReg t j ≠ readReg s j →
    (∃ kk, i = .ldVByte j kk) ∨ (∃ kk, i = .addVByte j kk) ∨
    (j = 15#4 ∧ s.cfg.addCarry = true ∧ ∃ x kk, i = .addVByte x kk) ∨
    (j = 15#4 ∧ s.cfg.vfCollision = true ∧ ∃ x y h, i = .drw x y h)

/-- Every instruction that completes advances `pc` by 2 modulo 65536, but for JP (40_engine.md section 1; decision
D7). -/
def Obligations.PcAdvancesByTwo : Prop :=
  ∀ (i : Instr) (s t : State), exec i s = .next t → t.out ≠ none → (∀ nnn, i ≠ .jp nnn) →
    t.pc.toNat = (s.pc.toNat + 2) % 65536

/-- The stated invariant of an even program counter, under the condition it needs: every executed JP has an even
target (90_conflicts.md C2; decision D8, log entry 8). -/
def Obligations.EvenPcIsKeptByEvenJumps : Prop :=
  ∀ s t : State, step s = .next t → s.pc.toNat % 2 = 0 →
    (∀ w nnn, fetch s = .ok w → decode w = .jp nnn → nnn.toNat % 2 = 0) → t.pc.toNat % 2 = 0

/-- A JP to its own address is a fixed point: the tick sets only `started` and the outputs, and the state after it
steps to itself (41_clear_and_jump.md section 2). -/
def Obligations.SelfJumpIsAFixedPoint : Prop :=
  ∀ (s : State) (a : Addr12), a.toNat ≤ 0xFFE → s.faulted = none → s.pc = a.setWidth 16 →
    s.byteAt a.toNat = 0x1#4 ++ a.extractLsb' 8 4 → s.byteAt (a.toNat + 1) = a.extractLsb' 0 8 →
    step s = .next { s with started := true, out := some ⟨false, none⟩ } ∧
    State.stopped { s with started := true, out := some ⟨false, none⟩ }

/-- No self-jump exists at 0xFFF: its second byte is the one at 0x000, which is 0x00 when FONT_BASE > 0
(41_clear_and_jump.md section 2; decision D6). -/
def Obligations.NoSelfJumpAtTheTop : Prop :=
  ∀ s t : State, s.Inv → 0 < s.cfg.fontBase.val → s.cfg.addrOverflow = .wrap → s.pc = 0xFFF#16 →
    step s = .next t → t.pc ≠ 0xFFF#16

/-- With nothing loaded every tick inside the ROM region is a CLS (40_engine.md section 3). -/
def Obligations.EmptyRomTicksClear : Prop :=
  ∀ s : State, s.mem = [] → s.faulted = none → romStart ≤ s.pc.toNat → s.pc.toNat + 1 < memSize →
    ∃ t, step s = .next t ∧ (∀ k, k < fbCells → t.fb.get k = false) ∧ t.out = some ⟨true, none⟩ ∧
      t.pc = s.pc + 2#16 ∧ SameRegs s t

/-- No tick reads a timer: changing the timers changes nothing else of the next state (10_state.md section 4). -/
def Obligations.TimersAreNeverRead : Prop :=
  ∀ (s t : State) (d e : Byte), step s = .next t → step (s.setTimers d e) = .next (t.setTimers d e)

/-- No tick reads the outputs of the tick before it, nor `started` (40_engine.md sections 2 and 3). The outputs field is the model's own (log entry 2); `started` is the spec's choice
(decision D14). -/
def Obligations.BookkeepingIsNeverRead : Prop :=
  (∀ (s : State) (o : Option TickOutput), step (s.setOut o) = step s) ∧
  (∀ (s t : State) (b : Bool), step s = .next t → t.faulted = none → step (s.setStarted b) = .next t)

/-! ### The host's actions -/

/-- What construction leaves: memory with the font at FONT_BASE and 0x00 elsewhere, and every startup value. The zeros
of the registers, timers and cells are the spec's choices (decisions D3, D4; log entries 4 and 5). -/
def Obligations.ConstructionLeavesFontAndZeros : Prop :=
  ∀ p : Params,
    (∀ j, j < 80 → (State.construct p).byteAt (p.fontBase.val + j) = (p.font[j]?).getD 0#8) ∧
    (∀ a, a < p.fontBase.val ∨ p.fontBase.val + 80 ≤ a → (State.construct p).byteAt a = 0x00#8) ∧
    (∀ j, readReg (State.construct p) j = 0x00#8) ∧ (State.construct p).I = 0#16 ∧ (State.construct p).pc = 0x200#16 ∧
    (State.construct p).dt = 0#8 ∧ (State.construct p).st = 0#8 ∧
    (∀ k, k < fbCells → (State.construct p).fb.get k = false) ∧
    (State.construct p).started = false ∧ (State.construct p).faulted = none ∧ (State.construct p).cfg = p

/-- Reset: registers, `I`, timers and `pc` at their startup values and `started` false; memory, framebuffer and the
fault mark unchanged (decisions D3, D5, D25; log entries 4 and 5). -/
def Obligations.HostResetReinitialisesRegistersOnly : Prop :=
  ∀ s : State, ∃ t, hostStep .reset s = .next (t, .done) ∧ (∀ j, readReg t j = 0x00#8) ∧ t.I = 0#16 ∧
    t.pc = 0x200#16 ∧ t.dt = 0#8 ∧ t.st = 0#8 ∧ t.started = false ∧
    (∀ a, t.byteAt a = s.byteAt a) ∧ t.fb = s.fb ∧ t.faulted = s.faulted ∧ t.cfg = s.cfg

/-- Load before the first tick copies its bytes to 0x200 onward and changes nothing else (20_memory.md section 4;
decisions D14, D15, log entry 11). -/
def Obligations.LoadCopiesIntoTheRomRegion : Prop :=
  ∀ (s : State) (data : List Byte), s.Inv → s.faulted = none → s.started = false → data.length ≤ 3584 →
    ∃ t, hostStep (.load data) s = .next (t, .loadOk) ∧
      (∀ i, i < data.length → t.byteAt (0x200 + i) = (data[i]?).getD 0#8) ∧
      (∀ a, a < 0x200 ∨ 0x200 + data.length ≤ a → t.byteAt a = s.byteAt a) ∧
      t = { s with mem := t.mem }

/-- RomTooLarge (rule R202): a Load that exceeds the space is rejected with no state changed; only such a Load answers
it; and the CORE does not itself refuse the tick after it. -/
def Obligations.OversizedLoadIsRejectedAtomically : Prop :=
  (∀ (s : State) (data : List Byte), s.faulted = none → s.started = false → 3584 < data.length →
    hostStep (.load data) s = .next (s, .romTooLarge)) ∧
  (∀ (a : HostAction) (s t : State), hostStep a s = .next (t, .romTooLarge) →
    t = s ∧ (∃ data, a = .load data ∧ 3584 < data.length) ∧ hostStep .tick t = hostStep .tick s)

/-- A Load after a tick is refused until the next reset (decision D14, log entry 11). -/
def Obligations.LoadIsRefusedAfterATick : Prop :=
  (∀ (s t : State) (data : List Byte), step s = .next t → t.faulted = none →
    hostStep (.load data) t = .refused .loadAfterStart) ∧
  (∀ (s : State) (data : List Byte), s.faulted = none → data.length ≤ 3584 →
    ∃ t, hostStep (.load data) (hostReset s) = .next (t, .loadOk)) ∧
  (∀ (s : State) (r : FaultReason) (data : List Byte), s.faulted = some r →
    hostStep (.load data) s = .refused .loadWhileFaulted)

/-- TimerTick, when TIMER_DECREMENT is true: each timer goes down by 1, never below 0, and nothing else changes; when
it is false the action does not exist (decision D16, log entry 6). -/
def Obligations.TimerTickCountsDownToZero : Prop :=
  (∀ s : State, s.cfg.timerDecrement = true → ∃ t, hostStep .timerTick s = .next (t, .done) ∧
    t.dt.toNat = s.dt.toNat - 1 ∧ t.st.toNat = s.st.toNat - 1 ∧ t = { s with dt := t.dt, st := t.st }) ∧
  (∀ s : State, s.cfg.timerDecrement = false → hostStep .timerTick s = .refused .noTimerTick)

/-- Over every run of host actions on one constructed CORE, the font and every byte below 0x200 keep their construction
values (20_memory.md section 3). -/
def Obligations.LowMemoryIsImmutable : Prop :=
  ∀ (p : Params) (rejected : Bool) (actions : List HostAction) (t : State),
    (∀ q, HostAction.construct q ∉ actions) → runActions rejected actions (State.construct p) = .next t →
    ∀ a, a < 0x200 → t.byteAt a = (State.construct p).byteAt a

/-- A fault mark stays, whatever the host does, until a new construction (decision D25, log entry 3). -/
def Obligations.FaultMarkStaysUntilConstruction : Prop :=
  ∀ (a : HostAction) (s t : State) (r : Response) (q : FaultReason), s.faulted = some q →
    hostStep a s = .next (t, r) → (∀ p, a ≠ .construct p) → t.faulted = some q

/-- In a run, a Tick after a rejected Load is refused until a Load is accepted or a CORE constructed: a rejected Load
sets the mark of the run, Reset, ReadFramebuffer and TimerTick keep it, and an accepted Load or a Construct clears it; a
Tick where the mark is clear runs and leaves it clear (70_reset_and_hazards.md section 3; what clears and what keeps the
mark is the model's choice, log entry 12). -/
def Obligations.RunStopsAtATickAfterARejectedLoad : Prop :=
  (∀ (s : State) (rest : List HostAction), runActions true (.tick :: rest) s = .refused .tickAfterRejectedLoad) ∧
  (∀ (s : State) (data : List Byte) (rest : List HostAction) (rejected : Bool), s.faulted = none → s.started = false →
    3584 < data.length → runActions rejected (.load data :: rest) s = runActions true rest s) ∧
  (∀ (a : HostAction) (s t : State) (r : Response) (rest : List HostAction) (rejected : Bool),
    a ∈ [HostAction.reset, .readFramebuffer, .timerTick] → hostStep a s = .next (t, r) →
    runActions rejected (a :: rest) s = runActions rejected rest t) ∧
  (∀ (s : State) (data : List Byte) (rest : List HostAction) (rejected : Bool), s.faulted = none → s.started = false →
    data.length ≤ 3584 →
    ∃ t, runActions rejected (.load data :: rest) s = runActions false rest t ∧ t = { s with mem := t.mem }) ∧
  (∀ (s : State) (p : Params) (rest : List HostAction) (rejected : Bool),
    runActions rejected (.construct p :: rest) s = runActions false rest (State.construct p)) ∧
  (∀ (s t : State) (rest : List HostAction), step s = .next t →
    runActions false (.tick :: rest) s = runActions false rest t)
end

