-- ==== Sys2Proof/Laws/State.lean ====
section
/-! SUPPORT. One lemma per field per update of the state, each true by rfl, so that no later proof unfolds a record
update. -/

namespace Sys2Proof.Machine

/-! ### setX -/

@[simp] theorem State.setX_x (s : State) (v : Vector Byte 16) : (s.setX v).x = v := rfl
@[simp] theorem State.setX_I (s : State) (v : Vector Byte 16) : (s.setX v).I = s.I := rfl
@[simp] theorem State.setX_pc (s : State) (v : Vector Byte 16) : (s.setX v).pc = s.pc := rfl
@[simp] theorem State.setX_dt (s : State) (v : Vector Byte 16) : (s.setX v).dt = s.dt := rfl
@[simp] theorem State.setX_st (s : State) (v : Vector Byte 16) : (s.setX v).st = s.st := rfl
@[simp] theorem State.setX_mem (s : State) (v : Vector Byte 16) : (s.setX v).mem = s.mem := rfl
@[simp] theorem State.setX_fb (s : State) (v : Vector Byte 16) : (s.setX v).fb = s.fb := rfl
@[simp] theorem State.setX_started (s : State) (v : Vector Byte 16) : (s.setX v).started = s.started := rfl
@[simp] theorem State.setX_faulted (s : State) (v : Vector Byte 16) : (s.setX v).faulted = s.faulted := rfl
@[simp] theorem State.setX_cfg (s : State) (v : Vector Byte 16) : (s.setX v).cfg = s.cfg := rfl
@[simp] theorem State.setX_out (s : State) (v : Vector Byte 16) : (s.setX v).out = s.out := rfl

/-! ### setI -/

@[simp] theorem State.setI_x (s : State) (v : Word) : (s.setI v).x = s.x := rfl
@[simp] theorem State.setI_I (s : State) (v : Word) : (s.setI v).I = v := rfl
@[simp] theorem State.setI_pc (s : State) (v : Word) : (s.setI v).pc = s.pc := rfl
@[simp] theorem State.setI_dt (s : State) (v : Word) : (s.setI v).dt = s.dt := rfl
@[simp] theorem State.setI_st (s : State) (v : Word) : (s.setI v).st = s.st := rfl
@[simp] theorem State.setI_mem (s : State) (v : Word) : (s.setI v).mem = s.mem := rfl
@[simp] theorem State.setI_fb (s : State) (v : Word) : (s.setI v).fb = s.fb := rfl
@[simp] theorem State.setI_started (s : State) (v : Word) : (s.setI v).started = s.started := rfl
@[simp] theorem State.setI_faulted (s : State) (v : Word) : (s.setI v).faulted = s.faulted := rfl
@[simp] theorem State.setI_cfg (s : State) (v : Word) : (s.setI v).cfg = s.cfg := rfl
@[simp] theorem State.setI_out (s : State) (v : Word) : (s.setI v).out = s.out := rfl

/-! ### setPc -/

@[simp] theorem State.setPc_x (s : State) (v : Word) : (s.setPc v).x = s.x := rfl
@[simp] theorem State.setPc_I (s : State) (v : Word) : (s.setPc v).I = s.I := rfl
@[simp] theorem State.setPc_pc (s : State) (v : Word) : (s.setPc v).pc = v := rfl
@[simp] theorem State.setPc_dt (s : State) (v : Word) : (s.setPc v).dt = s.dt := rfl
@[simp] theorem State.setPc_st (s : State) (v : Word) : (s.setPc v).st = s.st := rfl
@[simp] theorem State.setPc_mem (s : State) (v : Word) : (s.setPc v).mem = s.mem := rfl
@[simp] theorem State.setPc_fb (s : State) (v : Word) : (s.setPc v).fb = s.fb := rfl
@[simp] theorem State.setPc_started (s : State) (v : Word) : (s.setPc v).started = s.started := rfl
@[simp] theorem State.setPc_faulted (s : State) (v : Word) : (s.setPc v).faulted = s.faulted := rfl
@[simp] theorem State.setPc_cfg (s : State) (v : Word) : (s.setPc v).cfg = s.cfg := rfl
@[simp] theorem State.setPc_out (s : State) (v : Word) : (s.setPc v).out = s.out := rfl

/-! ### setTimers -/

@[simp] theorem State.setTimers_x (s : State) (d e : Byte) : (s.setTimers d e).x = s.x := rfl
@[simp] theorem State.setTimers_I (s : State) (d e : Byte) : (s.setTimers d e).I = s.I := rfl
@[simp] theorem State.setTimers_pc (s : State) (d e : Byte) : (s.setTimers d e).pc = s.pc := rfl
@[simp] theorem State.setTimers_dt (s : State) (d e : Byte) : (s.setTimers d e).dt = d := rfl
@[simp] theorem State.setTimers_st (s : State) (d e : Byte) : (s.setTimers d e).st = e := rfl
@[simp] theorem State.setTimers_mem (s : State) (d e : Byte) : (s.setTimers d e).mem = s.mem := rfl
@[simp] theorem State.setTimers_fb (s : State) (d e : Byte) : (s.setTimers d e).fb = s.fb := rfl
@[simp] theorem State.setTimers_started (s : State) (d e : Byte) : (s.setTimers d e).started = s.started := rfl
@[simp] theorem State.setTimers_faulted (s : State) (d e : Byte) : (s.setTimers d e).faulted = s.faulted := rfl
@[simp] theorem State.setTimers_cfg (s : State) (d e : Byte) : (s.setTimers d e).cfg = s.cfg := rfl
@[simp] theorem State.setTimers_out (s : State) (d e : Byte) : (s.setTimers d e).out = s.out := rfl

/-! ### setMem -/

@[simp] theorem State.setMem_x (s : State) (m : Memory) : (s.setMem m).x = s.x := rfl
@[simp] theorem State.setMem_I (s : State) (m : Memory) : (s.setMem m).I = s.I := rfl
@[simp] theorem State.setMem_pc (s : State) (m : Memory) : (s.setMem m).pc = s.pc := rfl
@[simp] theorem State.setMem_dt (s : State) (m : Memory) : (s.setMem m).dt = s.dt := rfl
@[simp] theorem State.setMem_st (s : State) (m : Memory) : (s.setMem m).st = s.st := rfl
@[simp] theorem State.setMem_mem (s : State) (m : Memory) : (s.setMem m).mem = m := rfl
@[simp] theorem State.setMem_fb (s : State) (m : Memory) : (s.setMem m).fb = s.fb := rfl
@[simp] theorem State.setMem_started (s : State) (m : Memory) : (s.setMem m).started = s.started := rfl
@[simp] theorem State.setMem_faulted (s : State) (m : Memory) : (s.setMem m).faulted = s.faulted := rfl
@[simp] theorem State.setMem_cfg (s : State) (m : Memory) : (s.setMem m).cfg = s.cfg := rfl
@[simp] theorem State.setMem_out (s : State) (m : Memory) : (s.setMem m).out = s.out := rfl

/-! ### setFb -/

@[simp] theorem State.setFb_x (s : State) (f : Framebuffer) : (s.setFb f).x = s.x := rfl
@[simp] theorem State.setFb_I (s : State) (f : Framebuffer) : (s.setFb f).I = s.I := rfl
@[simp] theorem State.setFb_pc (s : State) (f : Framebuffer) : (s.setFb f).pc = s.pc := rfl
@[simp] theorem State.setFb_dt (s : State) (f : Framebuffer) : (s.setFb f).dt = s.dt := rfl
@[simp] theorem State.setFb_st (s : State) (f : Framebuffer) : (s.setFb f).st = s.st := rfl
@[simp] theorem State.setFb_mem (s : State) (f : Framebuffer) : (s.setFb f).mem = s.mem := rfl
@[simp] theorem State.setFb_fb (s : State) (f : Framebuffer) : (s.setFb f).fb = f := rfl
@[simp] theorem State.setFb_started (s : State) (f : Framebuffer) : (s.setFb f).started = s.started := rfl
@[simp] theorem State.setFb_faulted (s : State) (f : Framebuffer) : (s.setFb f).faulted = s.faulted := rfl
@[simp] theorem State.setFb_cfg (s : State) (f : Framebuffer) : (s.setFb f).cfg = s.cfg := rfl
@[simp] theorem State.setFb_out (s : State) (f : Framebuffer) : (s.setFb f).out = s.out := rfl

/-! ### setStarted -/

@[simp] theorem State.setStarted_x (s : State) (b : Bool) : (s.setStarted b).x = s.x := rfl
@[simp] theorem State.setStarted_I (s : State) (b : Bool) : (s.setStarted b).I = s.I := rfl
@[simp] theorem State.setStarted_pc (s : State) (b : Bool) : (s.setStarted b).pc = s.pc := rfl
@[simp] theorem State.setStarted_dt (s : State) (b : Bool) : (s.setStarted b).dt = s.dt := rfl
@[simp] theorem State.setStarted_st (s : State) (b : Bool) : (s.setStarted b).st = s.st := rfl
@[simp] theorem State.setStarted_mem (s : State) (b : Bool) : (s.setStarted b).mem = s.mem := rfl
@[simp] theorem State.setStarted_fb (s : State) (b : Bool) : (s.setStarted b).fb = s.fb := rfl
@[simp] theorem State.setStarted_started (s : State) (b : Bool) : (s.setStarted b).started = b := rfl
@[simp] theorem State.setStarted_faulted (s : State) (b : Bool) : (s.setStarted b).faulted = s.faulted := rfl
@[simp] theorem State.setStarted_cfg (s : State) (b : Bool) : (s.setStarted b).cfg = s.cfg := rfl
@[simp] theorem State.setStarted_out (s : State) (b : Bool) : (s.setStarted b).out = s.out := rfl

/-! ### setFaulted -/

@[simp] theorem State.setFaulted_x (s : State) (r : Option FaultReason) : (s.setFaulted r).x = s.x := rfl
@[simp] theorem State.setFaulted_I (s : State) (r : Option FaultReason) : (s.setFaulted r).I = s.I := rfl
@[simp] theorem State.setFaulted_pc (s : State) (r : Option FaultReason) : (s.setFaulted r).pc = s.pc := rfl
@[simp] theorem State.setFaulted_dt (s : State) (r : Option FaultReason) : (s.setFaulted r).dt = s.dt := rfl
@[simp] theorem State.setFaulted_st (s : State) (r : Option FaultReason) : (s.setFaulted r).st = s.st := rfl
@[simp] theorem State.setFaulted_mem (s : State) (r : Option FaultReason) : (s.setFaulted r).mem = s.mem := rfl
@[simp] theorem State.setFaulted_fb (s : State) (r : Option FaultReason) : (s.setFaulted r).fb = s.fb := rfl
@[simp] theorem State.setFaulted_started (s : State) (r : Option FaultReason) : (s.setFaulted r).started = s.started := rfl
@[simp] theorem State.setFaulted_faulted (s : State) (r : Option FaultReason) : (s.setFaulted r).faulted = r := rfl
@[simp] theorem State.setFaulted_cfg (s : State) (r : Option FaultReason) : (s.setFaulted r).cfg = s.cfg := rfl
@[simp] theorem State.setFaulted_out (s : State) (r : Option FaultReason) : (s.setFaulted r).out = s.out := rfl

/-! ### setOut -/

@[simp] theorem State.setOut_x (s : State) (o : Option TickOutput) : (s.setOut o).x = s.x := rfl
@[simp] theorem State.setOut_I (s : State) (o : Option TickOutput) : (s.setOut o).I = s.I := rfl
@[simp] theorem State.setOut_pc (s : State) (o : Option TickOutput) : (s.setOut o).pc = s.pc := rfl
@[simp] theorem State.setOut_dt (s : State) (o : Option TickOutput) : (s.setOut o).dt = s.dt := rfl
@[simp] theorem State.setOut_st (s : State) (o : Option TickOutput) : (s.setOut o).st = s.st := rfl
@[simp] theorem State.setOut_mem (s : State) (o : Option TickOutput) : (s.setOut o).mem = s.mem := rfl
@[simp] theorem State.setOut_fb (s : State) (o : Option TickOutput) : (s.setOut o).fb = s.fb := rfl
@[simp] theorem State.setOut_started (s : State) (o : Option TickOutput) : (s.setOut o).started = s.started := rfl
@[simp] theorem State.setOut_faulted (s : State) (o : Option TickOutput) : (s.setOut o).faulted = s.faulted := rfl
@[simp] theorem State.setOut_cfg (s : State) (o : Option TickOutput) : (s.setOut o).cfg = s.cfg := rfl
@[simp] theorem State.setOut_out (s : State) (o : Option TickOutput) : (s.setOut o).out = o := rfl

/-! ### beginTick -/

@[simp] theorem beginTick_x (s : State) : (beginTick s).x = s.x := rfl
@[simp] theorem beginTick_I (s : State) : (beginTick s).I = s.I := rfl
@[simp] theorem beginTick_pc (s : State) : (beginTick s).pc = s.pc + 2#16 := rfl
@[simp] theorem beginTick_dt (s : State) : (beginTick s).dt = s.dt := rfl
@[simp] theorem beginTick_st (s : State) : (beginTick s).st = s.st := rfl
@[simp] theorem beginTick_mem (s : State) : (beginTick s).mem = s.mem := rfl
@[simp] theorem beginTick_fb (s : State) : (beginTick s).fb = s.fb := rfl
@[simp] theorem beginTick_started (s : State) : (beginTick s).started = true := rfl
@[simp] theorem beginTick_faulted (s : State) : (beginTick s).faulted = s.faulted := rfl
@[simp] theorem beginTick_cfg (s : State) : (beginTick s).cfg = s.cfg := rfl
@[simp] theorem beginTick_out (s : State) : (beginTick s).out = some ⟨false, none⟩ := rfl

/-! ### markChanged and reportUnknown -/

@[simp] theorem markChanged_x (s : State) : (markChanged s).x = s.x := rfl
@[simp] theorem markChanged_I (s : State) : (markChanged s).I = s.I := rfl
@[simp] theorem markChanged_pc (s : State) : (markChanged s).pc = s.pc := rfl
@[simp] theorem markChanged_dt (s : State) : (markChanged s).dt = s.dt := rfl
@[simp] theorem markChanged_st (s : State) : (markChanged s).st = s.st := rfl
@[simp] theorem markChanged_mem (s : State) : (markChanged s).mem = s.mem := rfl
@[simp] theorem markChanged_fb (s : State) : (markChanged s).fb = s.fb := rfl
@[simp] theorem markChanged_started (s : State) : (markChanged s).started = s.started := rfl
@[simp] theorem markChanged_faulted (s : State) : (markChanged s).faulted = s.faulted := rfl
@[simp] theorem markChanged_cfg (s : State) : (markChanged s).cfg = s.cfg := rfl
@[simp] theorem markChanged_out (s : State) : (markChanged s).out = some ⟨true, none⟩ := rfl

@[simp] theorem reportUnknown_x (s : State) (w : Word) (a : Addr12) : (reportUnknown s w a).x = s.x := rfl
@[simp] theorem reportUnknown_I (s : State) (w : Word) (a : Addr12) : (reportUnknown s w a).I = s.I := rfl
@[simp] theorem reportUnknown_pc (s : State) (w : Word) (a : Addr12) : (reportUnknown s w a).pc = s.pc := rfl
@[simp] theorem reportUnknown_dt (s : State) (w : Word) (a : Addr12) : (reportUnknown s w a).dt = s.dt := rfl
@[simp] theorem reportUnknown_st (s : State) (w : Word) (a : Addr12) : (reportUnknown s w a).st = s.st := rfl
@[simp] theorem reportUnknown_mem (s : State) (w : Word) (a : Addr12) : (reportUnknown s w a).mem = s.mem := rfl
@[simp] theorem reportUnknown_fb (s : State) (w : Word) (a : Addr12) : (reportUnknown s w a).fb = s.fb := rfl
@[simp] theorem reportUnknown_started (s : State) (w : Word) (a : Addr12) : (reportUnknown s w a).started = s.started := rfl
@[simp] theorem reportUnknown_faulted (s : State) (w : Word) (a : Addr12) : (reportUnknown s w a).faulted = s.faulted := rfl
@[simp] theorem reportUnknown_cfg (s : State) (w : Word) (a : Addr12) : (reportUnknown s w a).cfg = s.cfg := rfl
@[simp] theorem reportUnknown_out (s : State) (w : Word) (a : Addr12) : (reportUnknown s w a).out = some ⟨false, some ⟨w, a⟩⟩ := rfl

/-! ### writeReg and the two flag writes -/

@[simp] theorem writeReg_I (s : State) (i : Reg) (v : Byte) : (writeReg s i v).I = s.I := rfl
@[simp] theorem writeReg_pc (s : State) (i : Reg) (v : Byte) : (writeReg s i v).pc = s.pc := rfl
@[simp] theorem writeReg_dt (s : State) (i : Reg) (v : Byte) : (writeReg s i v).dt = s.dt := rfl
@[simp] theorem writeReg_st (s : State) (i : Reg) (v : Byte) : (writeReg s i v).st = s.st := rfl
@[simp] theorem writeReg_mem (s : State) (i : Reg) (v : Byte) : (writeReg s i v).mem = s.mem := rfl
@[simp] theorem writeReg_fb (s : State) (i : Reg) (v : Byte) : (writeReg s i v).fb = s.fb := rfl
@[simp] theorem writeReg_started (s : State) (i : Reg) (v : Byte) : (writeReg s i v).started = s.started := rfl
@[simp] theorem writeReg_faulted (s : State) (i : Reg) (v : Byte) : (writeReg s i v).faulted = s.faulted := rfl
@[simp] theorem writeReg_cfg (s : State) (i : Reg) (v : Byte) : (writeReg s i v).cfg = s.cfg := rfl
@[simp] theorem writeReg_out (s : State) (i : Reg) (v : Byte) : (writeReg s i v).out = s.out := rfl

@[simp] theorem writeCarry_I (s : State) (b : Bool) : (writeCarry s b).I = s.I := by
  unfold writeCarry; split <;> rfl
@[simp] theorem writeCarry_pc (s : State) (b : Bool) : (writeCarry s b).pc = s.pc := by
  unfold writeCarry; split <;> rfl
@[simp] theorem writeCarry_dt (s : State) (b : Bool) : (writeCarry s b).dt = s.dt := by
  unfold writeCarry; split <;> rfl
@[simp] theorem writeCarry_st (s : State) (b : Bool) : (writeCarry s b).st = s.st := by
  unfold writeCarry; split <;> rfl
@[simp] theorem writeCarry_mem (s : State) (b : Bool) : (writeCarry s b).mem = s.mem := by
  unfold writeCarry; split <;> rfl
@[simp] theorem writeCarry_fb (s : State) (b : Bool) : (writeCarry s b).fb = s.fb := by
  unfold writeCarry; split <;> rfl
@[simp] theorem writeCarry_started (s : State) (b : Bool) : (writeCarry s b).started = s.started := by
  unfold writeCarry; split <;> rfl
@[simp] theorem writeCarry_faulted (s : State) (b : Bool) : (writeCarry s b).faulted = s.faulted := by
  unfold writeCarry; split <;> rfl
@[simp] theorem writeCarry_cfg (s : State) (b : Bool) : (writeCarry s b).cfg = s.cfg := by
  unfold writeCarry; split <;> rfl
@[simp] theorem writeCarry_out (s : State) (b : Bool) : (writeCarry s b).out = s.out := by
  unfold writeCarry; split <;> rfl

@[simp] theorem writeCollision_I (s : State) (b : Bool) : (writeCollision s b).I = s.I := by
  unfold writeCollision; split <;> rfl
@[simp] theorem writeCollision_pc (s : State) (b : Bool) : (writeCollision s b).pc = s.pc := by
  unfold writeCollision; split <;> rfl
@[simp] theorem writeCollision_dt (s : State) (b : Bool) : (writeCollision s b).dt = s.dt := by
  unfold writeCollision; split <;> rfl
@[simp] theorem writeCollision_st (s : State) (b : Bool) : (writeCollision s b).st = s.st := by
  unfold writeCollision; split <;> rfl
@[simp] theorem writeCollision_mem (s : State) (b : Bool) : (writeCollision s b).mem = s.mem := by
  unfold writeCollision; split <;> rfl
@[simp] theorem writeCollision_fb (s : State) (b : Bool) : (writeCollision s b).fb = s.fb := by
  unfold writeCollision; split <;> rfl
@[simp] theorem writeCollision_started (s : State) (b : Bool) : (writeCollision s b).started = s.started := by
  unfold writeCollision; split <;> rfl
@[simp] theorem writeCollision_faulted (s : State) (b : Bool) : (writeCollision s b).faulted = s.faulted := by
  unfold writeCollision; split <;> rfl
@[simp] theorem writeCollision_cfg (s : State) (b : Bool) : (writeCollision s b).cfg = s.cfg := by
  unfold writeCollision; split <;> rfl
@[simp] theorem writeCollision_out (s : State) (b : Bool) : (writeCollision s b).out = s.out := by
  unfold writeCollision; split <;> rfl

/-! ### The state right after construction -/

@[simp] theorem State.construct_x (p : Params) : (State.construct p).x = Vector.replicate 16 startupReg := rfl
@[simp] theorem State.construct_I (p : Params) : (State.construct p).I = startupIndex := rfl
@[simp] theorem State.construct_pc (p : Params) : (State.construct p).pc = startupPc := rfl
@[simp] theorem State.construct_dt (p : Params) : (State.construct p).dt = startupTimer := rfl
@[simp] theorem State.construct_st (p : Params) : (State.construct p).st = startupTimer := rfl
@[simp] theorem State.construct_mem (p : Params) : (State.construct p).mem = [] := rfl
@[simp] theorem State.construct_fb (p : Params) : (State.construct p).fb = startupFramebuffer := rfl
@[simp] theorem State.construct_started (p : Params) : (State.construct p).started = false := rfl
@[simp] theorem State.construct_faulted (p : Params) : (State.construct p).faulted = none := rfl
@[simp] theorem State.construct_cfg (p : Params) : (State.construct p).cfg = p := rfl
@[simp] theorem State.construct_out (p : Params) : (State.construct p).out = none := rfl

end Sys2Proof.Machine
end

