-- ==== Sys2Proof/Laws/Memory.lean ====
section
/-! SUPPORT. The laws of memory: a read after a write, and that every memory operation keeps the canonical form. -/

namespace Sys2Proof.Machine

/-- Address `a` is above the bound `lo`, when there is one. -/
def Above (lo : Option Nat) (a : Nat) : Prop := ∀ l, lo = some l → l < a

theorem wfFrom_cons {p : Params} {lo : Option Nat} {k : Nat} {v : Byte} {m : Memory} :
    Memory.wfFrom p lo ((k, v) :: m) = true ↔
      Above lo k ∧ k < memSize ∧ v ≠ unlistedByte p k ∧ Memory.wfFrom p (some k) m = true := by
  cases lo <;> simp [Memory.wfFrom, Above, and_assoc]

theorem wfFrom_weaken {p : Params} {lo lo' : Option Nat} {m : Memory}
    (h : ∀ a, Above lo a → Above lo' a) (hw : Memory.wfFrom p lo m = true) : Memory.wfFrom p lo' m = true := by
  cases m with
  | nil => cases lo' <;> simp [Memory.wfFrom]
  | cons e rest =>
    obtain ⟨k, v⟩ := e
    rw [wfFrom_cons] at hw ⊢
    exact ⟨h k hw.1, hw.2⟩

/-- Below the first listed address a memory reads as construction left it. -/
theorem read_of_le {p : Params} {m : Memory} {l a : Nat} (hw : Memory.wfFrom p (some l) m = true) (ha : a ≤ l) :
    Memory.read p m a = unlistedByte p a := by
  induction m generalizing l with
  | nil => rfl
  | cons e rest ih =>
    obtain ⟨k, v⟩ := e
    rw [wfFrom_cons] at hw
    have hk : l < k := hw.1 l rfl
    simp only [Memory.read, show ¬ k = a by omega, if_false]
    exact ih hw.2.2.2 (by omega)

theorem read_insert (p : Params) (m : Memory) (a b : Nat) (v : Byte) :
    Memory.read p (Memory.insert a v m) b = if a = b then v else Memory.read p m b := by
  induction m with
  | nil => simp [Memory.insert, Memory.read]
  | cons e rest ih =>
    obtain ⟨k, w⟩ := e
    unfold Memory.insert
    split
    · simp [Memory.read]
    · split
      · subst_vars; simp [Memory.read]; split <;> rfl
      · simp only [Memory.read, ih]; split <;> split <;> simp_all

theorem read_erase {p : Params} {lo : Option Nat} {m : Memory} (hw : Memory.wfFrom p lo m = true) (a b : Nat) :
    Memory.read p (Memory.erase a m) b = if a = b then unlistedByte p b else Memory.read p m b := by
  induction m generalizing lo with
  | nil => simp [Memory.erase, Memory.read]
  | cons e rest ih =>
    obtain ⟨k, w⟩ := e
    rw [wfFrom_cons] at hw
    unfold Memory.erase
    split
    · subst_vars
      by_cases hab : k = b
      · subst hab; simp [read_of_le hw.2.2.2 (Nat.le_refl k)]
      · simp [Memory.read, hab]
    · simp only [Memory.read, ih hw.2.2.2]; split <;> split <;> simp_all

/-- A read after a write: the written byte at its address, every other byte as before. -/
theorem read_write {p : Params} {m : Memory} (hw : Memory.wf p m = true) (a b : Nat) (v : Byte) :
    Memory.read p (Memory.write p m a v) b = if a = b then v else Memory.read p m b := by
  unfold Memory.write
  split
  · rw [read_erase hw]; split <;> simp_all
  · exact read_insert p m a b v

theorem wfFrom_insert {p : Params} {lo : Option Nat} {m : Memory} {a : Nat} {v : Byte}
    (hw : Memory.wfFrom p lo m = true) (hlo : Above lo a) (ha : a < memSize) (hv : v ≠ unlistedByte p a) :
    Memory.wfFrom p lo (Memory.insert a v m) = true := by
  induction m generalizing lo with
  | nil => rw [Memory.insert, wfFrom_cons]; exact ⟨hlo, ha, hv, rfl⟩
  | cons e rest ih =>
    obtain ⟨k, w⟩ := e
    have hw' := wfFrom_cons.mp hw
    unfold Memory.insert
    split
    · refine wfFrom_cons.mpr ⟨hlo, ha, hv, wfFrom_cons.mpr ⟨?_, hw'.2⟩⟩
      intro l hl; simp only [Option.some.injEq] at hl; omega
    · split
      · subst_vars; exact wfFrom_cons.mpr ⟨hlo, ha, hv, hw'.2.2.2⟩
      · refine wfFrom_cons.mpr ⟨hw'.1, hw'.2.1, hw'.2.2.1, ih hw'.2.2.2 ?_⟩
        intro l hl; simp only [Option.some.injEq] at hl; omega

theorem wfFrom_erase {p : Params} {lo : Option Nat} {m : Memory} (a : Nat) (hw : Memory.wfFrom p lo m = true) :
    Memory.wfFrom p lo (Memory.erase a m) = true := by
  induction m generalizing lo with
  | nil => exact hw
  | cons e rest ih =>
    obtain ⟨k, w⟩ := e
    have hw' := wfFrom_cons.mp hw
    unfold Memory.erase
    split
    · refine wfFrom_weaken (fun b hb l hl => ?_) hw'.2.2.2
      have h1 := hw'.1 l hl
      have h2 := hb k rfl
      omega
    · exact wfFrom_cons.mpr ⟨hw'.1, hw'.2.1, hw'.2.2.1, ih hw'.2.2.2⟩

/-- A write inside the address space keeps the canonical form. -/
theorem wf_write {p : Params} {m : Memory} {a : Nat} (hw : Memory.wf p m = true) (ha : a < memSize) (v : Byte) :
    Memory.wf p (Memory.write p m a v) = true := by
  unfold Memory.write
  split
  · exact wfFrom_erase a hw
  · exact wfFrom_insert hw (fun l hl => by simp at hl) ha ‹_›

/-- Every address listed after a write was listed before or is the one written. -/
theorem mem_write {p : Params} {m : Memory} {a : Nat} {v : Byte} {e : Host.Cell}
    (he : e ∈ Memory.write p m a v) : e ∈ m ∨ e.1 = a := by
  have hi : ∀ m : Memory, e ∈ Memory.insert a v m → e ∈ m ∨ e.1 = a := by
    intro m
    induction m with
    | nil => simp [Memory.insert]; rintro rfl; rfl
    | cons c rest ih =>
      obtain ⟨k, w⟩ := c
      unfold Memory.insert
      split
      · simp only [List.mem_cons]; rintro (rfl | h) <;> simp_all
      · split
        · simp only [List.mem_cons]; rintro (rfl | h) <;> simp_all
        · simp only [List.mem_cons]; rintro (rfl | h)
          · exact .inl (.inl rfl)
          · rcases ih h with h | h <;> simp_all
  have hr : ∀ m : Memory, e ∈ Memory.erase a m → e ∈ m := by
    intro m
    induction m with
    | nil => exact fun h => h
    | cons c rest ih =>
      obtain ⟨k, w⟩ := c
      unfold Memory.erase
      split
      · exact fun h => List.mem_cons_of_mem _ h
      · simp only [List.mem_cons]; rintro (rfl | h)
        · exact .inl rfl
        · exact .inr (ih h)
  unfold Memory.write at he
  split at he
  · exact .inl (hr m he)
  · exact hi m he

/-- MemWrite of a sequence that stays inside the address space keeps the canonical form. -/
theorem wf_writeBytes {p : Params} (data : List Byte) {m : Memory} {a : Nat} (hw : Memory.wf p m = true)
    (ha : a + data.length ≤ memSize) : Memory.wf p (Memory.writeBytes p m a data) = true := by
  induction data generalizing m a with
  | nil => exact hw
  | cons b rest ih =>
    simp only [List.length_cons] at ha
    exact ih (wf_write hw (by omega) b) (by omega)

/-- Every address listed after MemWrite of a sequence at `a` was listed before or is at or above `a`. -/
theorem mem_writeBytes {p : Params} (data : List Byte) {m : Memory} {a : Nat} {e : Host.Cell}
    (he : e ∈ Memory.writeBytes p m a data) : e ∈ m ∨ a ≤ e.1 := by
  induction data generalizing m a with
  | nil => exact .inl he
  | cons b rest ih =>
    rcases ih he with h | h
    · rcases mem_write h with h | h
      · exact .inl h
      · exact .inr (by omega)
    · exact .inr (by omega)

/-- Reads after MemWrite of a sequence at `a`: the sequence's bytes in their places, every other byte as before. -/
theorem read_writeBytes {p : Params} (data : List Byte) {m : Memory} {a : Nat} (hw : Memory.wf p m = true)
    (ha : a + data.length ≤ memSize) (b : Nat) :
    Memory.read p (Memory.writeBytes p m a data) b =
      if a ≤ b ∧ b < a + data.length then (data[b - a]?).getD 0#8 else Memory.read p m b := by
  induction data generalizing m a with
  | nil => simp [Memory.writeBytes]
  | cons c rest ih =>
    simp only [List.length_cons] at ha ⊢
    rw [Memory.writeBytes, ih (wf_write hw (by omega) c) (by omega), read_write hw]
    by_cases h1 : a = b
    · subst h1; simp
    · by_cases h2 : a + 1 ≤ b ∧ b < a + 1 + rest.length
      · have : b - a = (b - (a + 1)) + 1 := by omega
        rw [if_pos h2, if_pos (by omega), this]; simp
      · rw [if_neg h2, if_neg h1, if_neg (by omega)]

/-- Nothing listed below the ROM start: every byte below it reads as construction left it. -/
theorem read_below_rom {p : Params} {m : Memory} (h : ∀ e ∈ m, romStart ≤ e.1) {a : Nat} (ha : a < romStart) :
    Memory.read p m a = unlistedByte p a := by
  induction m with
  | nil => rfl
  | cons e rest ih =>
    obtain ⟨k, v⟩ := e
    have hk := h (k, v) (List.mem_cons_self ..)
    simp only at hk
    simp only [Memory.read, show ¬ k = a by omega, if_false]
    exact ih fun e he => h e (List.mem_cons_of_mem _ he)

end Sys2Proof.Machine
end

