-- ==== Sys2Proof/Laws/Ops.lean ====
section
/-! SUPPORT. One lemma per shared operation that says everything it can do: registers, flags, address reduction and
single-byte reads. -/

namespace Sys2Proof.Machine

/-! ### Registers -/

@[simp] theorem readReg_writeReg (s : State) (i j : Reg) (v : Byte) :
    readReg (writeReg s i v) j = if i = j then v else readReg s j := by
  simp [readReg, writeReg, Vector.getElem_set, BitVec.toNat_inj]

/-- Registers read the same wherever `x` is the same. -/
theorem readReg_congr {s t : State} (h : t.x = s.x) (j : Reg) : readReg t j = readReg s j := by
  unfold readReg; simp only [h]

/-- Two states whose registers all read the same have the same registers. -/
theorem x_ext {s t : State} (h : ∀ j, readReg t j = readReg s j) : t.x = s.x := by
  apply Vector.ext
  intro i hi
  have h' := h (BitVec.ofNat 4 i)
  simpa [readReg, Nat.mod_eq_of_lt hi] using h'

@[simp] theorem readReg_setI (s : State) (v : Word) (j : Reg) : readReg (s.setI v) j = readReg s j := rfl
@[simp] theorem readReg_setPc (s : State) (v : Word) (j : Reg) : readReg (s.setPc v) j = readReg s j := rfl
@[simp] theorem readReg_setTimers (s : State) (d e : Byte) (j : Reg) : readReg (s.setTimers d e) j = readReg s j := rfl
@[simp] theorem readReg_setMem (s : State) (m : Memory) (j : Reg) : readReg (s.setMem m) j = readReg s j := rfl
@[simp] theorem readReg_setFb (s : State) (f : Framebuffer) (j : Reg) : readReg (s.setFb f) j = readReg s j := rfl
@[simp] theorem readReg_setStarted (s : State) (b : Bool) (j : Reg) : readReg (s.setStarted b) j = readReg s j := rfl
@[simp] theorem readReg_setFaulted (s : State) (r : Option FaultReason) (j : Reg) :
    readReg (s.setFaulted r) j = readReg s j := rfl
@[simp] theorem readReg_setOut (s : State) (o : Option TickOutput) (j : Reg) : readReg (s.setOut o) j = readReg s j := rfl
@[simp] theorem readReg_beginTick (s : State) (j : Reg) : readReg (beginTick s) j = readReg s j := rfl
@[simp] theorem readReg_markChanged (s : State) (j : Reg) : readReg (markChanged s) j = readReg s j := rfl
@[simp] theorem readReg_reportUnknown (s : State) (w : Word) (a : Addr12) (j : Reg) :
    readReg (reportUnknown s w a) j = readReg s j := rfl

/-! ### Flags -/

@[simp] theorem readReg_writeCarry (s : State) (c : Bool) (j : Reg) :
    readReg (writeCarry s c) j = if s.cfg.addCarry = true ∧ flagReg = j then flagByte c else readReg s j := by
  unfold writeCarry; split <;> simp_all

@[simp] theorem readReg_writeCollision (s : State) (c : Bool) (j : Reg) :
    readReg (writeCollision s c) j = if s.cfg.vfCollision = true ∧ flagReg = j then flagByte c else readReg s j := by
  unfold writeCollision; split <;> simp_all

theorem wrapSum_toNat (a b : Byte) : (wrapSum a b).toNat = (a.toNat + b.toNat) % 256 := by
  simp [wrapSum, exactSum]

/-! ### Bytes of memory -/

/-- Bytes read the same wherever memory and parameters are the same. -/
theorem byteAt_congr {s t : State} (hm : t.mem = s.mem) (hc : t.cfg = s.cfg) (a : Nat) : t.byteAt a = s.byteAt a := by
  unfold State.byteAt; rw [hm, hc]

theorem effAddr_wrap {p : Params} (h : p.addrOverflow = .wrap) (a : Nat) : effAddr p a = .ok (a % memSize) := by
  simp [effAddr, h]

theorem effAddr_of_lt (p : Params) {a : Nat} (h : a < memSize) : effAddr p a = .ok a := by
  unfold effAddr; split
  · rw [Nat.mod_eq_of_lt h]
  · rw [if_pos h]

theorem effAddr_fault {p : Params} (h : p.addrOverflow = .fault) {a : Nat} (ha : memSize ≤ a) :
    effAddr p a = .error (.addressFault a) := by
  simp [effAddr, h, Nat.not_lt.mpr ha]

/-- Everything a data read can do (rules R64, R65): the byte at the address modulo 4096, or, under ADDR_OVERFLOW =
fault and only for an address past the space, the fault that names the address. -/
theorem memReadEff_eq (s : State) (a : Nat) :
    memReadEff s a =
      if s.cfg.addrOverflow = .fault ∧ memSize ≤ a then .error (.addressFault a) else .ok (s.byteAt (a % memSize)) := by
  rcases h : s.cfg.addrOverflow
  · simp [memReadEff, effAddr, h, memRead, Nat.mod_lt]
  · by_cases ha : a < memSize
    · simp [memReadEff, effAddr, h, ha, memRead, Nat.not_le.mpr ha, Nat.mod_eq_of_lt ha]
    · simp [memReadEff, effAddr, h, ha, Nat.not_lt.mp ha]

end Sys2Proof.Machine
end

