-- ==== Sys2Proof/Laws/Framebuffer.lean ====
section
/-! SUPPORT. The laws of the framebuffer and of the draw loops, from one pixel up to one row. -/

namespace Sys2Proof.Machine

theorem getLsbD_putBit (row : BitVec fbWidth) (c j : Nat) (b : Bool) :
    (putBit row c b).getLsbD j = if c = j ∧ c < fbWidth then b else row.getLsbD j := by
  unfold putBit
  by_cases hj : j < fbWidth
  · by_cases h : c = j
    · subst h; cases b <;> simp [hj]
    · have h' : ¬ j = c := fun e => h e.symm
      cases b <;> simp [h, h', hj]
  · cases b <;> simp [BitVec.getLsbD_of_ge _ j (Nat.le_of_not_lt hj)]
    omega

theorem get_put (f : Framebuffer) (k j : Nat) (b : Bool) :
    (f.put k b).get j = if k = j ∧ k < fbCells then b else f.get j := by
  unfold Framebuffer.get Framebuffer.put
  simp only [fbWidth, fbHeight, fbCells] at *
  by_cases hj : j / 64 < 32
  · by_cases hk : k / 64 < 32
    · simp only [hj, hk, dite_true, Vector.getElem_set]
      by_cases hr : k / 64 = j / 64
      · simp only [hr, if_true, getLsbD_putBit, fbWidth]
        by_cases h : k = j
        · subst h; rw [if_pos ⟨rfl, by omega⟩, if_pos ⟨rfl, by omega⟩]
        · rw [if_neg (by omega), if_neg (by omega)]
      · rw [if_neg hr, if_neg (by omega)]
    · simp only [hk, dite_false]; rw [if_neg (by omega)]
  · simp only [hj, dite_false]; rw [if_neg (by omega)]

@[simp] theorem get_blank (k : Nat) : blankFramebuffer.get k = false := by
  unfold Framebuffer.get blankFramebuffer
  split <;> simp

/-- A framebuffer is the values of its 2048 cells. -/
theorem framebuffer_ext {f g : Framebuffer}
    (h : ∀ row col, row < fbHeight → col < fbWidth → f.get (cellIndex row col) = g.get (cellIndex row col)) :
    f = g := by
  apply Vector.ext
  intro row hr
  apply BitVec.eq_of_getLsbD_eq
  intro col hc
  have h' := h row col hr hc
  have h1 : cellIndex row col / fbWidth = row := by simp only [cellIndex, fbWidth] at *; omega
  have h2 : cellIndex row col % fbWidth = col := by simp only [cellIndex, fbWidth] at *; omega
  simpa only [Framebuffer.get, h1, h2, hr, dite_true] using h'

theorem cellIndex_lt {row col : Nat} (hr : row < fbHeight) (hc : col < fbWidth) : cellIndex row col < fbCells := by
  simp only [cellIndex, fbCells, fbWidth, fbHeight] at *; omega

/-- Inside the frame, distinct places are distinct cells (43_sprite_draw.md rule R169). -/
theorem cellIndex_inj {r c r' c' : Nat} (hc : c < fbWidth) (hc' : c' < fbWidth) :
    cellIndex r c = cellIndex r' c' ↔ r = r' ∧ c = c' := by
  simp only [cellIndex, fbWidth] at *; omega

/-- One pixel at a place inside the frame: that cell is XORed with the bit, every other cell is as before. -/
theorem drawPixel_get {d : Draw} {row x : Nat} (bit : Bool) (hr : row < fbHeight) (hx : x < fbWidth) {r c : Nat}
    (hc : c < fbWidth) :
    (drawPixel d (cellIndex row x) bit).fb.get (cellIndex r c) =
      (d.fb.get (cellIndex r c) ^^ (decide (r = row ∧ c = x) && bit)) := by
  simp only [drawPixel, get_put, cellIndex_lt hr hx, and_true, cellIndex_inj hx hc]
  by_cases h : row = r ∧ x = c
  · obtain ⟨rfl, rfl⟩ := h; simp
  · rw [if_neg h, decide_eq_false (by omega)]; simp

/-- The columns of one row (rule R164): each cell of the row from column `x0 + c` on, at most `n` of them and none past
column 63, is XORed with its bit of the sprite byte; every other cell is as before. -/
theorem drawCols_get (b : Byte) {row : Nat} (hr : row < fbHeight) (x0 n c : Nat) (d : Draw) {r col : Nat}
    (hc : col < fbWidth) :
    (drawCols b row x0 n c d).fb.get (cellIndex r col) =
      (d.fb.get (cellIndex r col) ^^
        (decide (r = row ∧ x0 + c ≤ col ∧ col < x0 + c + n) && spriteBit b (col - x0))) := by
  induction n generalizing c d with
  | zero => simp only [drawCols]; rw [decide_eq_false (by omega)]; simp
  | succ n ih =>
    unfold drawCols
    simp only [fbWidth] at hc
    split
    · rw [decide_eq_false (by omega)]; simp
    · rw [ih, drawPixel_get _ hr (by simp only [fbWidth]; omega) hc]
      by_cases h : r = row ∧ col = x0 + c
      · obtain ⟨rfl, rfl⟩ := h
        rw [decide_eq_false (p := r = r ∧ x0 + (c + 1) ≤ x0 + c ∧ _) (by omega),
          decide_eq_true (p := r = r ∧ x0 + c ≤ x0 + c ∧ _) (by omega)]
        simp
      · rw [decide_eq_false h]
        have : (r = row ∧ x0 + (c + 1) ≤ col ∧ col < x0 + (c + 1) + n) ↔
            (r = row ∧ x0 + c ≤ col ∧ col < x0 + c + (n + 1)) := by omega
        simp [this]

/-- The collision test of one row's columns (rule R165): some bit of value 1 falls on a cell that held 1. -/
theorem drawCols_hit (b : Byte) {row : Nat} (hr : row < fbHeight) (x0 n c : Nat) (d : Draw) :
    (drawCols b row x0 n c d).hit = true ↔
      d.hit = true ∨ ∃ col, col < fbWidth ∧ (x0 + c ≤ col ∧ col < x0 + c + n) ∧
        d.fb.get (cellIndex row col) = true ∧ spriteBit b (col - x0) = true := by
  induction n generalizing c d with
  | zero => simp [drawCols]
  | succ n ih =>
    unfold drawCols
    split
    · simp only [fbWidth]; constructor
      · exact .inl
      · rintro (h | ⟨col, _, _, _⟩)
        · exact h
        · omega
    · rw [ih]
      have hx : x0 + c < fbWidth := by simp only [fbWidth]; omega
      constructor
      · rintro (h | ⟨col, h1, h2, h3, h4⟩)
        · simp only [drawPixel, Bool.or_eq_true, Bool.and_eq_true] at h
          rcases h with h | ⟨h, h'⟩
          · exact .inl h
          · exact .inr ⟨x0 + c, hx, by omega, h, by simpa using h'⟩
        · rw [drawPixel_get _ hr hx h1, decide_eq_false (by omega)] at h3
          exact .inr ⟨col, h1, by omega, by simpa using h3, h4⟩
      · rintro (h | ⟨col, h1, h2, h3, h4⟩)
        · exact .inl (by simp [drawPixel, h])
        · by_cases hcol : col = x0 + c
          · subst hcol
            exact .inl (by simp [drawPixel, h3, show x0 + c - x0 = c by omega ▸ h4])
          · refine .inr ⟨col, h1, by omega, ?_, h4⟩
            rw [drawPixel_get _ hr hx h1, decide_eq_false (by omega)]
            simpa using h3

/-- One row of a draw (rules R163, R164). -/
theorem drawRow_get (b : Byte) {row : Nat} (hr : row < fbHeight) (x0 : Nat) (d : Draw) {r col : Nat}
    (hc : col < fbWidth) :
    (drawRow b row x0 d).fb.get (cellIndex r col) =
      (d.fb.get (cellIndex r col) ^^ (decide (r = row ∧ x0 ≤ col ∧ col < x0 + 8) && spriteBit b (col - x0))) :=
  drawCols_get b hr x0 8 0 d hc

/-- The collision test of one row (rule R165). -/
theorem drawRow_hit (b : Byte) {row : Nat} (hr : row < fbHeight) (x0 : Nat) (d : Draw) :
    (drawRow b row x0 d).hit = true ↔
      d.hit = true ∨ ∃ col, col < fbWidth ∧ (x0 ≤ col ∧ col < x0 + 8) ∧
        d.fb.get (cellIndex row col) = true ∧ spriteBit b (col - x0) = true :=
  drawCols_hit b hr x0 8 0 d

/-- A row the vertical rule draws is inside the frame (rule R166). -/
theorem rowRule_draw_lt {mode : VerticalMode} {y row : Nat} (h : rowRule mode y = .draw row) : row < fbHeight := by
  simp only [fbHeight]
  unfold rowRule at h
  split at h
  · cases h; assumption
  · split at h
    · cases h
    · cases h; simp only [fbHeight]; omega
    · cases h

/-- Everything the vertical rule can say (rule R166). -/
theorem rowRule_cases (mode : VerticalMode) (y : Nat) :
    (y < fbHeight ∧ rowRule mode y = .draw y) ∨
    (fbHeight ≤ y ∧ ((mode = .clip ∧ rowRule mode y = .stop) ∨ (mode = .wrap ∧ rowRule mode y = .draw (y % fbHeight)) ∨
      (mode = .fault ∧ rowRule mode y = .overflow))) := by
  by_cases h : y < fbHeight
  · exact .inl ⟨h, by simp [rowRule, h]⟩
  · refine .inr ⟨Nat.le_of_not_lt h, ?_⟩
    cases mode <;> simp [rowRule, h]

/-- Why a draw can raise: only for a row it reaches, with the row number or the address that raised it, and only under
a fault setting (rules R162, R166). -/
theorem drawRows_error {s : State} {x0 y0 n r : Nat} {d : Draw} {e : FaultReason}
    (h : drawRows s x0 y0 n r d = .error e) :
    ∃ r', r ≤ r' ∧ r' < r + n ∧
      ((s.cfg.verticalMode = .fault ∧ fbHeight ≤ y0 + r' ∧ e = .verticalOverflow (y0 + r')) ∨
       (s.cfg.addrOverflow = .fault ∧ memSize ≤ s.I.toNat + r' ∧ e = .addressFault (s.I.toNat + r'))) := by
  induction n generalizing r d with
  | zero => cases h
  | succ n ih =>
    unfold drawRows at h
    split at h
    · cases h
    · rename_i hv
      cases h
      refine ⟨r, Nat.le_refl _, by omega, .inl ?_⟩
      rcases rowRule_cases s.cfg.verticalMode (y0 + r) with ⟨_, h⟩ | ⟨hy, ⟨_, h⟩ | ⟨_, h⟩ | ⟨hm, _⟩⟩
      · rw [h] at hv; cases hv
      · rw [h] at hv; cases hv
      · rw [h] at hv; cases hv
      · exact ⟨hm, hy, rfl⟩
    · rw [memReadEff_eq] at h
      split at h
      · rename_i he
        split at he
        · cases he; cases h
          rename_i hc
          exact ⟨r, Nat.le_refl _, by omega, .inr ⟨hc.1, hc.2, rfl⟩⟩
        · cases he
      · obtain ⟨r', h1, h2, h3⟩ := ih h
        exact ⟨r', by omega, by omega, h3⟩

end Sys2Proof.Machine
end

