-- ==== Sys2Proof/Laws/PerInstr.lean ====
section
/-! SUPPORT. The family TopNibble: every instruction's word carries its own row's top nibble, by which alone the
dispatch selects (30_encoding.md rules R94, R95), and its operand bits stand in bits 11 to 0. -/

namespace Sys2Proof

theorem opField_append (f : Nibble) (b : BitVec 12) : opField (f ++ b) = f :=
  BitVec.extractLsb'_append_eq_left

theorem nnnField_append (f : Nibble) (b : BitVec 12) : nnnField (f ++ b) = b :=
  BitVec.extractLsb'_append_eq_right

/-- A word is its top nibble and its low 12 bits. -/
theorem opField_append_nnnField (w : Word) : (opField w ++ nnnField w : BitVec (4 + 12)) = w := by
  simpa [opField, nnnField] using BitVec.extractLsb'_append_extractLsb' (w := 4) (len := 12) (x := w)

/-- A word is its high byte and its low byte (rule R13). -/
theorem catBytes_split (w : Word) : catBytes (w.extractLsb' 8 8) (w.extractLsb' 0 8) = w := by
  simpa [catBytes] using BitVec.extractLsb'_append_extractLsb' (w := 8) (len := 8) (x := w)

theorem catBytes_high (hi lo : Byte) : (catBytes hi lo).extractLsb' 8 8 = hi :=
  BitVec.extractLsb'_append_eq_left

theorem catBytes_low (hi lo : Byte) : (catBytes hi lo).extractLsb' 0 8 = lo :=
  BitVec.extractLsb'_append_eq_right

/-- Formats XK (rule R91): a register field and an immediate field make up the low 12 bits. -/
theorem n1Field_append_kkField (w : Word) : n1Field w ++ kkField w = nnnField w := by
  unfold n1Field kkField nnnField
  rw [BitVec.extractLsb'_append_extractLsb'_eq_extractLsb' (by rfl)]

/-- Format XYN (rule R91): two register fields and a count make up the low 12 bits. -/
theorem n1Field_append_n2Field_append_n3Field (w : Word) : n1Field w ++ n2Field w ++ n3Field w = nnnField w := by
  unfold n1Field n2Field n3Field nnnField
  rw [BitVec.extractLsb'_append_extractLsb'_eq_extractLsb' (by rfl),
    BitVec.extractLsb'_append_extractLsb'_eq_extractLsb' (by rfl)]

/-- What the decoder reads from the two bytes of a word. -/
theorem decodeBytes_wordBytes (w : Word) (rest : List Byte) :
    decodeBytes (wordBytes w ++ rest) = .ok (decode w, rest) := by
  simp only [wordBytes, List.cons_append, List.nil_append, decodeBytes, catBytes_split]

end Sys2Proof

namespace Sys2Proof.Laws.TopNibble

/-- The word of an instruction: its row's top nibble and its operand bits, each in its place. -/
def Statement (i : Instr) : Prop := opField (encode i) = i.family ∧ nnnField (encode i) = i.operandBits

theorem statement_all (i : Instr) : Statement i := ⟨opField_append _ _, nnnField_append _ _⟩

theorem cls (b : BitVec 12) : Statement (.cls b) := statement_all _
theorem jp (nnn : Addr12) : Statement (.jp nnn) := statement_all _
theorem unknown2 (b : BitVec 12) : Statement (.unknown2 b) := statement_all _
theorem unknown3 (b : BitVec 12) : Statement (.unknown3 b) := statement_all _
theorem unknown4 (b : BitVec 12) : Statement (.unknown4 b) := statement_all _
theorem unknown5 (b : BitVec 12) : Statement (.unknown5 b) := statement_all _
theorem ldVByte (x : Reg) (kk : Byte) : Statement (.ldVByte x kk) := statement_all _
theorem addVByte (x : Reg) (kk : Byte) : Statement (.addVByte x kk) := statement_all _
theorem unknown8 (b : BitVec 12) : Statement (.unknown8 b) := statement_all _
theorem unknown9 (b : BitVec 12) : Statement (.unknown9 b) := statement_all _
theorem ldIAddr (nnn : Addr12) : Statement (.ldIAddr nnn) := statement_all _
theorem unknownB (b : BitVec 12) : Statement (.unknownB b) := statement_all _
theorem unknownC (b : BitVec 12) : Statement (.unknownC b) := statement_all _
theorem drw (x y : Reg) (n : Nibble) : Statement (.drw x y n) := statement_all _
theorem unknownE (b : BitVec 12) : Statement (.unknownE b) := statement_all _
theorem unknownF (b : BitVec 12) : Statement (.unknownF b) := statement_all _

end Sys2Proof.Laws.TopNibble
end

