-- ==== Sys2Proof/Laws/Step.lean ====
section
/-! SUPPORT. What the fetch, an instruction, a tick and a step can do, said once: the inversions every whole-machine
claim rests on. -/

namespace Sys2Proof.Machine

/-! ### The state a raise leaves -/

/-- The state after a raise (40_engine.md rule R116). -/
def raised (s : State) (r : FaultReason) : State := (s.setFaulted (some r)).setOut none

theorem raise_eq (s : State) (r : FaultReason) : raise s r = .next (raised s r) := rfl

@[simp] theorem raised_faulted (s : State) (r : FaultReason) : (raised s r).faulted = some r := rfl
@[simp] theorem raised_out (s : State) (r : FaultReason) : (raised s r).out = none := rfl
@[simp] theorem raised_mem (s : State) (r : FaultReason) : (raised s r).mem = s.mem := rfl
@[simp] theorem raised_cfg (s : State) (r : FaultReason) : (raised s r).cfg = s.cfg := rfl
@[simp] theorem raised_I (s : State) (r : FaultReason) : (raised s r).I = s.I := rfl
@[simp] theorem raised_pc (s : State) (r : FaultReason) : (raised s r).pc = s.pc := rfl
@[simp] theorem raised_dt (s : State) (r : FaultReason) : (raised s r).dt = s.dt := rfl
@[simp] theorem raised_st (s : State) (r : FaultReason) : (raised s r).st = s.st := rfl
@[simp] theorem raised_x (s : State) (r : FaultReason) : (raised s r).x = s.x := rfl
@[simp] theorem raised_fb (s : State) (r : FaultReason) : (raised s r).fb = s.fb := rfl
@[simp] theorem raised_started (s : State) (r : FaultReason) : (raised s r).started = s.started := rfl

/-! ### Fetch -/

theorem memRead_of_lt (s : State) {a : Nat} (h : a < memSize) : memRead s a = .ok (s.byteAt a) := by
  simp [memRead, h]

/-- Everything the fetch can do (rules R65, R111): the first address past the space raises under ADDR_OVERFLOW =
fault; else the big-endian word of the two bytes. -/
theorem fetch_eq (s : State) :
    fetch s =
      if s.cfg.addrOverflow = .fault ∧ memSize ≤ s.pc.toNat then .error (.addressFault s.pc.toNat)
      else if s.cfg.addrOverflow = .fault ∧ memSize ≤ s.pc.toNat + 1 then .error (.addressFault (s.pc.toNat + 1))
      else .ok (catBytes (s.byteAt (s.pc.toNat % memSize)) (s.byteAt ((s.pc.toNat + 1) % memSize))) := by
  rcases h : s.cfg.addrOverflow
  · simp [fetch, effAddr, h, memRead, Nat.mod_lt]
  · by_cases h1 : s.pc.toNat < memSize
    · by_cases h2 : s.pc.toNat + 1 < memSize
      · simp [fetch, effAddr, h, h1, h2, memRead, Nat.not_le.mpr, Nat.mod_eq_of_lt]
      · simp [fetch, effAddr, h, h1, h2, Nat.not_le.mpr, Nat.not_lt.mp h2]
    · simp [fetch, effAddr, h, h1, Nat.not_lt.mp h1]

/-! ### Instructions -/

/-- Everything an instruction can do: a DRW whose loop raises keeps the state before the tick and marks it; otherwise
the instruction completes, and then it touches neither memory, timers, parameters nor the mark, and it returns an
output. -/
theorem exec_cases {i : Instr} {s t : State} (h : exec i s = .next t) :
    (∃ x y n r, i = .drw x y n ∧ drawRows s (originX s x) (originY s y) n.toNat 0 ⟨s.fb, false⟩ = .error r ∧
      t = raised s r) ∨
    (QuietFrame s t ∧ t.mem = s.mem ∧ t.started = true ∧ ∃ o, t.out = some o) := by
  cases i with
  | drw x y n =>
    simp only [exec, execDrw] at h
    split at h
    · rename_i r hr
      rw [raise_eq] at h; cases h
      exact .inl ⟨x, y, n, r, rfl, hr, rfl⟩
    · cases h
      refine .inr ⟨⟨fun a => byteAt_congr ?_ ?_ a, ?_, ?_, ?_, ?_⟩, ?_, ?_, ?_⟩ <;> simp
  | _ =>
    cases h
    refine .inr ⟨⟨fun a => byteAt_congr ?_ ?_ a, ?_, ?_, ?_, ?_⟩, ?_, ?_, ?_⟩ <;>
      simp

/-- Every instruction answers a next state: no arm stops. -/
theorem exec_total (i : Instr) (s : State) : ∃ t, exec i s = .next t := by
  cases i with
  | drw x y n =>
    simp only [exec, execDrw]
    split
    · exact ⟨_, rfl⟩
    · exact ⟨_, rfl⟩
  | _ => exact ⟨_, rfl⟩

/-! ### Ticks and steps -/

/-- Everything a step can do: nothing on a faulted CORE; else the fetch raises, or the fetched word's instruction runs
(rule R114). -/
theorem step_cases {s t : State} (h : step s = .next t) :
    s.faulted = none ∧
      ((∃ r, fetch s = .error r ∧ t = raised s r) ∨ ∃ w, fetch s = .ok w ∧ exec (decode w) s = .next t) := by
  unfold step tick at h
  split at h
  · cases h
  · rename_i hf
    refine ⟨hf, ?_⟩
    split at h
    · rename_i r hr
      rw [raise_eq] at h; cases h
      exact .inl ⟨r, hr, rfl⟩
    · rename_i w hw
      exact .inr ⟨w, hw, h⟩

theorem step_of_fetch {s : State} {w : Word} (hf : s.faulted = none) (hw : fetch s = .ok w) :
    step s = exec (decode w) s := by
  simp [step, tick, hf, hw]

theorem step_of_fetch_error {s : State} {r : FaultReason} (hf : s.faulted = none) (hr : fetch s = .error r) :
    step s = .next (raised s r) := by
  simp [step, tick, hf, hr, raise_eq]

theorem step_faulted {s : State} {r : FaultReason} (h : s.faulted = some r) : step s = .fault (.faultedCore r) := by
  simp [step, tick, h]

/-- No step is refused. -/
theorem step_not_refused (s : State) (q : Refusal) : step s ≠ .refused q := by
  intro h
  cases hf : s.faulted with
  | some r => rw [step_faulted hf] at h; cases h
  | none =>
    cases hw : fetch s with
    | error r => rw [step_of_fetch_error hf hw] at h; cases h
    | ok w =>
      obtain ⟨t, ht⟩ := exec_total (decode w) s
      rw [step_of_fetch hf hw, ht] at h; cases h

end Sys2Proof.Machine
end

