-- ==== Sys2Proof/Tests/Slice0.lean ====
section
/-! SUPPORT. Tests: every expected result is a vector of 95_test_vectors.md (named in the comment of its theorem) or is
worked out by hand from the rule named there. Then, for every statement with hypotheses, a concrete state and operands
that meet them (the theorems `witness_…`). -/

namespace Sys2Proof.Tests

open Sys2Proof Sys2Proof.Machine

/-- The outcome is a next state that satisfies `f`. -/
def after (o : Host.Outcome State Fault Refusal) (f : State → Bool) : Bool :=
  match o with
  | .next t => f t
  | .fault _ => false
  | .refused _ => false

/-- What `after` says, as an existence. -/
theorem next_of_after {o : Host.Outcome State Fault Refusal} {f : State → Bool} (h : after o f = true) :
    ∃ t, o = .next t ∧ f t = true := by
  cases o with
  | next t => exact ⟨t, rfl, h⟩
  | fault r => cases h
  | refused r => cases h

/-- As `after`, for a host action. -/
def afterAction (o : ActionResult) (f : State → Response → Bool) : Bool :=
  match o with
  | .next (t, r) => f t r
  | .fault _ => false
  | .refused _ => false

/-- A constructed CORE with ADDR_OVERFLOW = fault. -/
def addrFault : State := State.construct { defaultParams with addrOverflow := .fault }

/-- A constructed CORE with VERTICAL_MODE = fault. -/
def rowFault : State := State.construct { defaultParams with verticalMode := .fault }

/-- A constructed CORE with VERTICAL_MODE = wrap. -/
def rowWrap : State := State.construct { defaultParams with verticalMode := .wrap }

/-- A constructed CORE with ADD_CARRY = true. -/
def withCarry : State := State.construct { defaultParams with addCarry := true }

/-- A constructed CORE with TIMER_DECREMENT = true. -/
def withTimers : State := State.construct { defaultParams with timerDecrement := true }

/-- The start of the vectors DRW-1 and DRW-7: the sprite bytes at 0x300 and the origin in x[0], x[1]. -/
def sprite (s : State) (bytes : List Byte) (vx vy : Byte) : State :=
  writeReg (writeReg ((s.setI 0x300#16).setMem (Memory.writeBytes s.cfg s.mem 0x300 bytes)) 0#4 vx) 1#4 vy

/-! ### Well-formedness: the ill-formed terms are refused -/

/-- A ROM image of 3585 bytes is refused (LOAD-3); 3584 bytes fit (LOAD-2). -/
theorem test_rom_image_too_long : romFits (List.replicate 3585 0#8) = false ∧ romFits (List.replicate 3584 0#8) = true := by
  simp only [romFits, List.length_replicate]; decide

/-- An instruction's types leave nothing to refuse; a register operand 15 and a height 0 are well formed (rule R98). -/
theorem test_every_field_value_is_legal : (Instr.drw 15#4 15#4 0#4).wellFormed = true := by decide

/-- A byte sequence shorter than an instruction is refused by name (rule R90). -/
theorem test_truncated_bytes_refused : decodeBytes [0x6A#8] = .error .truncated ∧ decodeBytes [] = .error .truncated := by
  decide

/-- FONT_BASE + 80 ≤ 0x200 (rule R9): 0x1B0 is the last value the type has. -/
theorem test_font_base_range : (0x1B0 : Nat) < romStart - fontSize + 1 ∧ ¬ (0x1B1 : Nat) < romStart - fontSize + 1 := by
  decide

/-! ### Decoding: words written out bit by bit from rule R95 -/

theorem test_decode_cls : decode 0b0000000011101110#16 = .cls 0x0EE#12 := by decide
theorem test_decode_jp : decode 0b0001001010100100#16 = .jp 0x2A4#12 := by decide
theorem test_decode_unknown2 : decode 0b0010000100100011#16 = .unknown2 0x123#12 := by decide
theorem test_decode_unknown3 : decode 0b0011010001010110#16 = .unknown3 0x456#12 := by decide
theorem test_decode_unknown4 : decode 0b0100000000000000#16 = .unknown4 0x000#12 := by decide
theorem test_decode_unknown5 : decode 0b0101101010110000#16 = .unknown5 0xAB0#12 := by decide
theorem test_decode_ldVByte : decode 0b0110101000010010#16 = .ldVByte 10#4 0x12#8 := by decide
theorem test_decode_addVByte : decode 0b0111001100000001#16 = .addVByte 3#4 0x01#8 := by decide
theorem test_decode_unknown8 : decode 0b1000000100100011#16 = .unknown8 0x123#12 := by decide
theorem test_decode_unknown9 : decode 0b1001111111110000#16 = .unknown9 0xFF0#12 := by decide
theorem test_decode_ldIAddr : decode 0b1010000001010000#16 = .ldIAddr 0x050#12 := by decide
theorem test_decode_unknownB : decode 0b1011001000000000#16 = .unknownB 0x200#12 := by decide
theorem test_decode_unknownC : decode 0b1100000011111111#16 = .unknownC 0x0FF#12 := by decide
theorem test_decode_drw : decode 0b1101111100010010#16 = .drw 15#4 1#4 2#4 := by decide
theorem test_decode_unknownE : decode 0b1110000010011110#16 = .unknownE 0x09E#12 := by decide
theorem test_decode_unknownF : decode 0b1111000000101001#16 = .unknownF 0x029#12 := by decide

/-- No two rows of the encoding table overlap (rule R95). -/
theorem test_rows_do_not_overlap :
    opcodeTable.Pairwise fun a b => a.pattern &&& b.mask ≠ b.pattern &&& a.mask := by decide

/-- `decodeTableWord` lays the word out high byte first (rule R62). -/
theorem test_decodeTableWord : decodeTableWord 16 0x6A12 = some (.ldVByte 10#4 0x12#8) := by decide

/-! ### Fetch and tick -/

/-- ENG-1. -/
theorem test_eng1_big_endian_fetch :
    after (step (State.reset.setMem [(0x200, 0x6A#8), (0x201, 0x12#8)]))
      (fun t => readReg t 10#4 == 0x12#8 && t.pc == 0x202#16 && t.out == some ⟨false, none⟩ && t.started) = true := by
  decide

/-- ENG-2: an odd fetch. -/
theorem test_eng2_odd_fetch :
    after (step ((State.reset.setPc 0x2FF#16).setMem [(0x2FF, 0x12#8), (0x300, 0x00#8)])) (fun t => t.pc == 0x200#16) = true := by
  decide

/-- ENG-5: the second byte of a fetch at 0xFFF is at 0x000. -/
theorem test_eng5_fetch_wraps :
    after (step ((State.reset.setPc 0xFFF#16).setMem [(0xFFF, 0x13#8)])) (fun t => t.pc == 0x300#16) = true := by
  decide

/-- ENG-6: the same under ADDR_OVERFLOW = fault; the state is kept but for the mark, and no later tick has a step. -/
theorem test_eng6_fetch_raises :
    after (step ((addrFault.setPc 0xFFF#16).setMem [(0xFFF, 0x13#8)]))
      (fun t => t.faulted == some (.addressFault 0x1000) && t.pc == 0xFFF#16 && !t.started && t.out == none &&
        !after (step t) (fun _ => true)) = true := by
  decide

/-- ENG-7: `pc` wraps at 65536 and the fetch reads 0xFFE and 0xFFF. -/
theorem test_eng7_pc_wraps :
    after (step (State.reset.setPc 0xFFFE#16)) (fun t => t.pc == 0x0000#16 && t.out == some ⟨true, none⟩) = true := by
  decide

/-! ### The instructions -/

/-- CLS-1. -/
theorem test_cls1 :
    after (exec (.cls 0x0E0#12) (State.reset.setFb ((blankFramebuffer.put 0 true).put 2047 true)))
      (fun t => t.fb == blankFramebuffer && t.out == some ⟨true, none⟩ && t.pc == 0x202#16) = true := by decide

/-- CLS-4: 0x00EE is a clear, not a return. -/
theorem test_cls4 :
    after (exec (.cls 0x0EE#12) (writeReg ((State.reset.setFb (blankFramebuffer.put 1 true)).setI 0x300#16) 3#4 7#8))
      (fun t => t.fb == blankFramebuffer && readReg t 3#4 == 7#8 && t.I == 0x300#16 && t.pc == 0x202#16) = true := by
  decide

/-- JP-1. -/
theorem test_jp1 : after (exec (.jp 0x2A4#12) State.reset) (fun t => t.pc == 0x2A4#16 && t.out == some ⟨false, none⟩) = true := by
  decide

/-- JP-4: an odd target is no trap. -/
theorem test_jp4 : after (exec (.jp 0x201#12) State.reset) (fun t => t.pc == 0x201#16) = true := by decide

/-- LDV-3: x[15] is written like any other. -/
theorem test_ldv3 : after (exec (.ldVByte 15#4 0x00#8) (writeReg State.reset 15#4 1#8)) (fun t => readReg t 15#4 == 0#8) = true := by
  decide

/-- LDV-4: no other register changes. -/
theorem test_ldv4 :
    after (exec (.ldVByte 5#4 0x00#8) (writeReg State.reset 5#4 0x99#8)) (fun t => t.x == Vector.replicate 16 0#8) = true := by
  decide

/-- ADD-7, at both settings of ADD_CARRY. -/
theorem test_add7 :
    after (exec (.addVByte 3#4 0xFF#8) (writeReg State.reset 3#4 0xFE#8))
      (fun t => readReg t 3#4 == 0xFD#8 && readReg t 15#4 == 0#8) = true ∧
    after (exec (.addVByte 3#4 0xFF#8) (writeReg withCarry 3#4 0xFE#8))
      (fun t => readReg t 3#4 == 0xFD#8 && readReg t 15#4 == 1#8) = true := by decide

/-- ADD-5 and ADD-6 under ADD_CARRY = true: the carry write comes last. -/
theorem test_add5_add6 :
    after (exec (.addVByte 15#4 0x01#8) (writeReg withCarry 15#4 0xFF#8)) (fun t => readReg t 15#4 == 1#8) = true ∧
    after (exec (.addVByte 15#4 0x05#8) (writeReg withCarry 15#4 0x10#8)) (fun t => readReg t 15#4 == 0#8) = true := by
  decide

/-- LDI-2. -/
theorem test_ldi2 : after (exec (.ldIAddr 0xFFF#12) State.reset) (fun t => t.I == 0x0FFF#16) = true := by decide

/-- DRW-5: horizontal clip at column 63. -/
theorem test_drw5_horizontal_clip :
    after (exec (.drw 0#4 1#4 1#4) (sprite State.reset [0xFF#8] 62#8 0#8))
      (fun t => t.fb == (blankFramebuffer.put 62 true).put 63 true && readReg t 15#4 == 0#8) = true := by decide

/-- DRW-7 at VERTICAL_MODE = clip, wrap and fault. -/
theorem test_drw7_vertical_modes :
    after (exec (.drw 0#4 1#4 4#4) (sprite State.reset [0x80#8, 0x80#8, 0x80#8, 0x80#8] 0#8 30#8))
      (fun t => t.fb == (blankFramebuffer.put 1920 true).put 1984 true) = true ∧
    after (exec (.drw 0#4 1#4 4#4) (sprite rowWrap [0x80#8, 0x80#8, 0x80#8, 0x80#8] 0#8 30#8))
      (fun t => t.fb == (((blankFramebuffer.put 1920 true).put 1984 true).put 0 true).put 64 true) = true ∧
    after (exec (.drw 0#4 1#4 4#4) (sprite rowFault [0x80#8, 0x80#8, 0x80#8, 0x80#8] 0#8 30#8))
      (fun t => t.fb == blankFramebuffer && t.faulted == some (.verticalOverflow 32) && t.pc == 0x200#16) = true := by
  decide +kernel

/-- DRW-10: the origin is read before the flag write, and the second draw starts elsewhere. -/
theorem test_drw10_flag_register_as_origin :
    after (exec (.drw 15#4 1#4 1#4) (writeReg (sprite State.reset [0x80#8] 0#8 0#8) 15#4 5#8))
      (fun t => t.fb == blankFramebuffer.put 5 true && readReg t 15#4 == 0#8 &&
        after (exec (.drw 15#4 1#4 1#4) t) (fun u => u.fb == (blankFramebuffer.put 5 true).put 0 true)) = true := by
  decide +kernel

/-- DRW-12: glyph 0 of the default font, at 0x050. -/
theorem test_drw12_glyph_zero :
    after (exec (.drw 0#4 0#4 5#4) (State.reset.setI 0x050#16))
      (fun t => t.fb == [0, 1, 2, 3, 64, 67, 128, 131, 192, 195, 256, 257, 258, 259].foldl
        (fun f k => Framebuffer.put f k true) blankFramebuffer) = true := by
  decide +kernel

/-- DRW-2: the second draw erases and sets x[15]. -/
theorem test_drw2_erase_and_collision :
    after (exec (.drw 0#4 1#4 1#4) ((sprite State.reset [0xC0#8] 2#8 3#8).setFb ((blankFramebuffer.put 194 true).put 195 true)))
      (fun t => t.fb == blankFramebuffer && readReg t 15#4 == 1#8) = true := by
  decide +kernel

/-- UNK-8: through the whole tick. -/
theorem test_unknown8 :
    after (step (State.reset.withFetchWord 16 0x8123))
      (fun t => t.pc == 0x202#16 && t.out == some ⟨false, some ⟨0x8123#16, 0x200#12⟩⟩ &&
        t.x == State.reset.x && t.fb == State.reset.fb && t.I == 0#16) = true := by decide

/-- The word each unknown family reports (UNK-2 to UNK-F but UNK-8). -/
theorem test_unknown_words :
    after (exec (.unknown2 0x123#12) State.reset) (fun t => t.out == some ⟨false, some ⟨0x2123#16, 0x200#12⟩⟩) = true ∧
    after (exec (.unknown3 0x456#12) State.reset) (fun t => t.out == some ⟨false, some ⟨0x3456#16, 0x200#12⟩⟩) = true ∧
    after (exec (.unknown4 0x000#12) State.reset) (fun t => t.out == some ⟨false, some ⟨0x4000#16, 0x200#12⟩⟩) = true ∧
    after (exec (.unknown5 0xAB0#12) State.reset) (fun t => t.out == some ⟨false, some ⟨0x5AB0#16, 0x200#12⟩⟩) = true ∧
    after (exec (.unknown9 0xFF0#12) State.reset) (fun t => t.out == some ⟨false, some ⟨0x9FF0#16, 0x200#12⟩⟩) = true ∧
    after (exec (.unknownB 0x200#12) State.reset) (fun t => t.out == some ⟨false, some ⟨0xB200#16, 0x200#12⟩⟩) = true ∧
    after (exec (.unknownC 0x0FF#12) State.reset) (fun t => t.out == some ⟨false, some ⟨0xC0FF#16, 0x200#12⟩⟩) = true ∧
    after (exec (.unknownE 0x09E#12) State.reset) (fun t => t.out == some ⟨false, some ⟨0xE09E#16, 0x200#12⟩⟩) = true ∧
    after (exec (.unknownF 0x029#12) State.reset) (fun t => t.out == some ⟨false, some ⟨0xF029#16, 0x200#12⟩⟩) = true := by
  decide

/-! ### The host's actions -/

/-- LOAD-4, its last Load: bytes beyond the Load's length keep an earlier Load's values. -/
theorem test_load4_shorter_reload :
    afterAction (hostLoad [9#8] (State.reset.setMem [(0x200, 1#8), (0x201, 2#8), (0x202, 3#8), (0x203, 4#8)]))
      (fun t r => r == .loadOk && t.mem == [(0x200, 9#8), (0x201, 2#8), (0x202, 3#8), (0x203, 4#8)]) = true := by decide

/-- LOAD-5: a Load after a tick is refused. -/
theorem test_load5_after_tick : hostLoad [0#8] (State.reset.setStarted true) = .refused .loadAfterStart := rfl

/-- RST-1, its Reset: registers, `I`, `pc` and `started` go back, memory stays. -/
theorem test_rst1_reset :
    afterAction (hostStep .reset ((writeReg (State.reset.setI 0x300#16) 10#4 0x12#8).setMem [(0x200, 0x6A#8)]))
      (fun t r => r == .done && t == State.reset.setMem [(0x200, 0x6A#8)]) = true := by decide

/-- The timers count down and stop at 0 (rule R240, by hand: 5 - 1 = 4, 0 stays 0). -/
theorem test_timer_tick :
    afterAction (hostStep .timerTick (withTimers.setTimers 5#8 0#8)) (fun t _ => t.dt == 4#8 && t.st == 0#8) = true := by
  decide

/-- P2's listing assembles to the ROM bytes the spec gives (95_test_vectors.md P2). -/
theorem test_listing_p2 :
    assemble 0x200 [.ldI (.label "rows"), .ldV 0#4 5#8, .ldV 1#4 2#8, .drw 0#4 1#4 2#4, .drw 0#4 1#4 2#4,
      .labelDef "stop", .jp (.label "stop"), .labelDef "rows", .db [0xC3#8, 0x81#8]] =
    some [0xA2#8, 0x0C#8, 0x60#8, 0x05#8, 0x61#8, 0x02#8, 0xD0#8, 0x12#8, 0xD0#8, 0x12#8, 0x12#8, 0x0A#8, 0xC3#8, 0x81#8] := by
  decide

/-- The listing text of a word (95_test_vectors.md P4: `81 23` is `UNK 0x8123`). -/
theorem test_listing_text : (disassemble 0x8123#16).text = "UNK 0x8123" ∧ (disassemble 0x6A12#16).text = "LD VA, 0x12" := by
  decide

/-! ### Witnesses: for every statement with hypotheses, concrete states and operands that meet them -/

/-- A constructed CORE with both overflow settings at fault. -/
def bothFault : State := State.construct { defaultParams with addrOverflow := .fault, verticalMode := .fault }

/-- A CORE that has raised. -/
def marked : State := (addrFault.setFaulted (some (.addressFault 0x1000)))

theorem reset_inv : State.reset.Inv :=
  ⟨rfl, (by intro e h; cases h), by decide, fun _ => ⟨rfl, rfl⟩, fun _ h => (by cases h), fun h => absurd rfl h,
    fun _ _ h => by cases h⟩

theorem witness_DecodeInvertsEncode : ∃ i : Instr, i.wellFormed = true := ⟨.drw 15#4 15#4 15#4, rfl⟩

theorem witness_DispatchSelectsOnTopNibble :
    (0x00EE#16 : Word).extractLsb' 12 4 = 0x0#4 ∧ (0x1FFF#16 : Word).extractLsb' 12 4 = 0x1#4 ∧
    (0x2000#16 : Word).extractLsb' 12 4 = 0x2#4 ∧ (0x3FFF#16 : Word).extractLsb' 12 4 = 0x3#4 ∧
    (0x4000#16 : Word).extractLsb' 12 4 = 0x4#4 ∧ (0x5FFF#16 : Word).extractLsb' 12 4 = 0x5#4 ∧
    (0x6FFF#16 : Word).extractLsb' 12 4 = 0x6#4 ∧ (0x7000#16 : Word).extractLsb' 12 4 = 0x7#4 ∧
    (0x8000#16 : Word).extractLsb' 12 4 = 0x8#4 ∧ (0x9FFF#16 : Word).extractLsb' 12 4 = 0x9#4 ∧
    (0xAFFF#16 : Word).extractLsb' 12 4 = 0xA#4 ∧ (0xB000#16 : Word).extractLsb' 12 4 = 0xB#4 ∧
    (0xCFFF#16 : Word).extractLsb' 12 4 = 0xC#4 ∧ (0xD000#16 : Word).extractLsb' 12 4 = 0xD#4 ∧
    (0xE000#16 : Word).extractLsb' 12 4 = 0xE#4 ∧ (0xFFFF#16 : Word).extractLsb' 12 4 = 0xF#4 := by decide

theorem witness_FetchReadsBigEndian : (State.reset.setPc 0xFFE#16).pc.toNat + 1 < memSize := by decide

theorem witness_FetchWrapsModuloMemory : (State.reset.setPc 0xFFFF#16).cfg.addrOverflow = .wrap := rfl

/-- Both settings of ADDR_OVERFLOW, the last address that fetches under fault among them. -/
theorem witness_StepRunsTheDecodedInstruction :
    (∃ (s : State) (i : Instr), s.faulted = none ∧ s.cfg.addrOverflow = .wrap ∧
      decodeBytes [s.byteAt (s.pc.toNat % memSize), s.byteAt ((s.pc.toNat + 1) % memSize)] = .ok (i, []) ∧
      i.wellFormed = true) ∧
    (∃ (s : State) (i : Instr), s.faulted = none ∧ s.cfg.addrOverflow = .fault ∧ s.pc.toNat + 1 < memSize ∧
      decodeBytes [s.byteAt (s.pc.toNat % memSize), s.byteAt ((s.pc.toNat + 1) % memSize)] = .ok (i, []) ∧
      i.wellFormed = true) :=
  ⟨⟨State.reset.withFetchWord 16 0x6A12, .ldVByte 10#4 0x12#8, by decide⟩,
    ⟨(addrFault.setPc 0xFFE#16).withFetchWord 16 0xD012, .drw 0#4 1#4 2#4, by decide⟩⟩

/-- Both addresses that can be the first past the space: `pc + 1` at 0xFFF and `pc` at 0x1000. -/
theorem witness_FetchPastTheTopRaises :
    ((addrFault.setPc 0xFFF#16).faulted = none ∧ (addrFault.setPc 0xFFF#16).cfg.addrOverflow = .fault ∧
      memSize ≤ (addrFault.setPc 0xFFF#16).pc.toNat + 1 ∧ ¬ memSize ≤ (addrFault.setPc 0xFFF#16).pc.toNat) ∧
    ((addrFault.setPc 0x1000#16).faulted = none ∧ (addrFault.setPc 0x1000#16).cfg.addrOverflow = .fault ∧
      memSize ≤ (addrFault.setPc 0x1000#16).pc.toNat) := by decide

theorem witness_FaultedCoreHasNoTick : marked.faulted = some (.addressFault 0x1000) := rfl

/-- A fetch that raises and a DRW that raises. -/
theorem witness_RaisedTickKeepsTheStateBefore :
    (∃ t r, (addrFault.setPc 0xFFF#16).faulted = none ∧ step (addrFault.setPc 0xFFF#16) = .next t ∧ t.faulted = some r) ∧
    (∃ s t r, s.faulted = none ∧ step s = .next t ∧ t.faulted = some r ∧ r = .verticalOverflow 32) := by
  constructor
  · obtain ⟨t, h1, h2⟩ := next_of_after (o := step (addrFault.setPc 0xFFF#16))
      (f := fun t => t.faulted == some (.addressFault 0x1000)) (by decide)
    exact ⟨t, .addressFault 0x1000, rfl, h1, by simpa using h2⟩
  · obtain ⟨t, h1, h2⟩ := next_of_after (o := step ((writeReg rowFault 1#4 31#8).withFetchWord 16 0xD012))
      (f := fun t => t.faulted == some (.verticalOverflow 32)) (by decide)
    exact ⟨_, t, .verticalOverflow 32, rfl, h1, by simpa using h2, rfl⟩

theorem witness_DefaultsNeverRaise :
    State.reset.faulted = none ∧ State.reset.cfg.addrOverflow = .wrap ∧ State.reset.cfg.verticalMode ≠ .fault := by decide

theorem witness_EveryTickKeepsTheInvariant : ∃ t, State.reset.Inv ∧ step State.reset = .next t := by
  obtain ⟨t, h, _⟩ := next_of_after (o := step State.reset) (f := fun t => t.started) (by decide)
  exact ⟨t, reset_inv, h⟩

theorem witness_EveryHostActionKeepsTheInvariant :
    ∃ t r, State.reset.Inv ∧ hostStep (.load [0x12#8, 0x00#8]) State.reset = .next (t, r) := ⟨_, _, reset_inv, rfl⟩

/-- The masks of the four instruction statements, at the last word of each family. -/
theorem witness_instruction_masks :
    (0x0FFF#16 : Word) &&& 0xF000#16 = 0x0000#16 ∧ (0x1FFF#16 : Word) &&& 0xF000#16 = 0x1000#16 ∧
    (0x6FFF#16 : Word) &&& 0xF000#16 = 0x6000#16 ∧ (0xAFFF#16 : Word) &&& 0xF000#16 = 0xA000#16 := by decide

/-- A JP whose target is its own address. -/
theorem witness_JpSetsPcToItsAddress_self : (State.reset.setPc 0xFFF#16).pc = (0xFFF#12 : Addr12).setWidth 16 := rfl

/-- Both sides of JP's fetch clause. -/
theorem witness_JpSetsPcToItsAddress_fetch :
    (addrFault.cfg.addrOverflow = .fault ∧ (0xFFF#12 : Addr12) = 0xFFF#12) ∧
    ¬ (addrFault.cfg.addrOverflow = .fault ∧ (0xFFE#12 : Addr12) = 0xFFF#12) ∧
    ¬ (State.reset.cfg.addrOverflow = .fault ∧ (0xFFF#12 : Addr12) = 0xFFF#12) := by decide

theorem witness_LdVByteSetsItsRegister : ∃ j x : Reg, j ≠ x := ⟨14#4, 15#4, by decide⟩

/-- The clauses of ADD: the flag register named and not named, both settings of ADD_CARRY, a sum of 255 and of 256. -/
theorem witness_AddVByteWrapsAndCarries :
    withCarry.cfg.addCarry = true ∧ State.reset.cfg.addCarry = false ∧ (3#4 : Reg) ≠ 15#4 ∧
    (∃ j : Reg, j ≠ 3#4 ∧ (withCarry.cfg.addCarry = true → j ≠ 15#4)) ∧
    ((0xFF#8 : Byte).toNat + (0x01#8 : Byte).toNat > 255) ∧ ¬ ((0xFE#8 : Byte).toNat + (0x01#8 : Byte).toNat > 255) :=
  ⟨rfl, rfl, by decide, ⟨4#4, by decide, fun _ => by decide⟩, by decide, by decide⟩

/-- DRW runs at the defaults for every sprite, and under both fault settings for one that just fits: rows 30 and 31,
bytes 0xFFE and 0xFFF. -/
theorem witness_DrwXorsThePicture_runs :
    DrwRuns (writeReg State.reset 1#4 31#8) 1#4 15#4 ∧
    DrwRuns ((writeReg bothFault 1#4 30#8).setI 0xFFE#16) 1#4 2#4 := by
  unfold DrwRuns; decide

/-- A sprite that collides and one that does not. -/
theorem witness_DrwXorsThePicture_collision :
    Collides ((sprite State.reset [0xC0#8] 2#8 3#8).setFb (blankFramebuffer.put 194 true)) 0#4 1#4 1#4 ∧
    ¬ Collides (sprite State.reset [0xC0#8] 2#8 3#8) 0#4 1#4 1#4 ∧
    (sprite State.reset [0xC0#8] 2#8 3#8).cfg.vfCollision = true := by
  refine ⟨⟨3, 2, by decide, by decide, by decide, by decide⟩, ?_, rfl⟩
  rintro ⟨row, col, _, _, h, _⟩
  have : (sprite State.reset [0xC0#8] 2#8 3#8).cell row col = false := get_blank _
  rw [this] at h; cases h

/-- The row that overflows also lies past the space: its vertical check comes first. -/
theorem witness_DrwPastTheBottomRaises :
    ∃ s : State, s.cfg.verticalMode = .fault ∧ s.cfg.addrOverflow = .fault ∧ fbHeight < originY s 1#4 + (2#4 : Nibble).toNat ∧
      (∀ r, originY s 1#4 + r < fbHeight → s.I.toNat + r < memSize) ∧ memSize ≤ s.I.toNat + 1 := by
  refine ⟨(writeReg bothFault 1#4 31#8).setI 0xFFF#16, rfl, rfl, by decide, ?_, by decide⟩
  intro r h
  have h1 : originY ((writeReg bothFault 1#4 31#8).setI 0xFFF#16) 1#4 = 31 := by decide
  have h2 : ((writeReg bothFault 1#4 31#8).setI 0xFFF#16).I.toNat = 0xFFF := by decide
  rw [h1] at h; rw [h2]; simp only [fbHeight, memSize] at *; omega

/-- DRW-9: the second row lies past the space. -/
theorem witness_DrwPastTheSpaceRaises :
    ∃ s : State, s.cfg.addrOverflow = .fault ∧ 1 < (2#4 : Nibble).toNat ∧ rowDrawn s (originY s 1#4) 1 = true ∧
      (∀ q, q < 1 → s.I.toNat + q < memSize) ∧ memSize ≤ s.I.toNat + 1 :=
  ⟨addrFault.setI 0xFFF#16, by decide⟩

theorem witness_DrwOfHeightZero : State.reset.cfg.vfCollision = true ∧
    ∃ j : Reg, State.reset.cfg.vfCollision = true → j ≠ 15#4 := ⟨rfl, 14#4, fun _ => by decide⟩

theorem witness_DrwAlwaysReportsChanged : ∃ t o, exec (.drw 0#4 1#4 0#4) State.reset = .next t ∧ t.out = some o := by
  obtain ⟨t, h1, h2⟩ := next_of_after (o := exec (.drw 0#4 1#4 0#4) State.reset)
    (f := fun t => t.out == some ⟨true, none⟩) (by decide)
  exact ⟨t, _, h1, by simpa using h2⟩

/-- The state between the two draws can be the state the first draw left. -/
theorem witness_DrawingTwiceRestoresTheFramebuffer :
    ∃ (s t u : State), (s.cfg.vfCollision = true → (0#4 : Reg) ≠ 15#4 ∧ (1#4 : Reg) ≠ 15#4) ∧ DrwRuns s 1#4 1#4 ∧
      exec (.drw 0#4 1#4 1#4) s = .next t ∧ u.fb = t.fb ∧ u.I = t.I ∧ readReg u 0#4 = readReg t 0#4 ∧
      readReg u 1#4 = readReg t 1#4 ∧ (∀ a, u.byteAt a = t.byteAt a) ∧ u.cfg = t.cfg ∧ s.cfg.vfCollision = true ∧
      s.cell 3 2 = false ∧ spritePixel s 0#4 1#4 1#4 3 2 = true := by
  obtain ⟨t, h1, _⟩ := next_of_after (o := exec (.drw 0#4 1#4 1#4) (sprite State.reset [0xC0#8] 2#8 3#8))
    (f := fun t => t.started) (by decide)
  exact ⟨_, t, t, fun _ => by decide, by unfold DrwRuns; decide, h1, rfl, rfl, rfl, rfl, fun _ => rfl, rfl, rfl,
    by decide, by decide⟩

/-- Two rows that are drawn, in each mode: at the bottom edge under clip and fault, around it under wrap. -/
theorem witness_DrawnCellsAreDistinct :
    (rowRule .clip (30 + 1) = .draw 31 ∧ rowRule .fault (30 + 1) = .draw 31 ∧ rowRule .wrap (30 + 14) = .draw 12) ∧
    ∃ x0 y0 r r' c c' row row', y0 < fbHeight ∧ r < 15 ∧ r' < 15 ∧ x0 + c < fbWidth ∧ x0 + c' < fbWidth ∧
      rowRule .wrap (y0 + r) = .draw row ∧ rowRule .wrap (y0 + r') = .draw row' ∧
      cellIndex row (x0 + c) = cellIndex row' (x0 + c') := by
  refine ⟨by decide, 63, 31, 14, 14, 0, 0, 13, 13, by decide⟩

theorem witness_UnknownFamiliesOnlyReport :
    ∃ i w, (i, w) ∈ [(Instr.unknown2 0xFFF#12, (0x2#4 ++ 0xFFF#12 : Word)), (Instr.unknown3 0xFFF#12, (0x3#4 ++ 0xFFF#12 : Word))] :=
  ⟨_, _, List.mem_cons_self⟩

theorem witness_UnknownWordsDegradeGracefully :
    opField 0x2000#16 ∈ [0x2#4, 0x3#4, 0x4#4, 0x5#4, 0x8#4, 0x9#4, 0xB#4, 0xC#4, 0xE#4, 0xF#4] ∧
    opField 0xFFFF#16 ∈ [0x2#4, 0x3#4, 0x4#4, 0x5#4, 0x8#4, 0x9#4, 0xB#4, 0xC#4, 0xE#4, 0xF#4] := by decide

/-- The completion clause: a DRW at the defaults, and a word of another family under both fault settings. -/
theorem witness_UnknownWordsDegradeGracefully_completes :
    (opField 0xD01F#16 = 0xD#4 ∧ State.reset.cfg.addrOverflow = .wrap ∧ State.reset.cfg.verticalMode ≠ .fault) ∧
    opField 0x00E0#16 ≠ 0xD#4 ∧ bothFault.cfg.addrOverflow = .fault ∧ bothFault.cfg.verticalMode = .fault := by decide

theorem witness_OutputsFollowTheArm : ∃ t o, exec (.unknownF 0#12) State.reset = .next t ∧ t.out = some o := ⟨_, _, rfl, rfl⟩

/-- A step that changes the framebuffer, and a host action that is neither Tick nor Construct. -/
theorem witness_OnlyClsAndDrwMutateTheFramebuffer :
    (∃ s t, step s = .next t ∧ t.fb ≠ s.fb) ∧
    (∃ t r, hostStep .reset State.reset = .next (t, r) ∧ HostAction.reset ≠ .tick ∧ ∀ p, HostAction.reset ≠ .construct p) := by
  constructor
  · obtain ⟨t, h1, h2⟩ := next_of_after (o := step ((State.reset.setI 0x050#16).withFetchWord 16 0xD001))
      (f := fun t => t.fb.get 0) (by decide)
    refine ⟨_, t, h1, fun h => ?_⟩
    rw [h] at h2; revert h2; decide
  · exact ⟨_, _, rfl, by decide, fun p h => by cases h⟩

theorem witness_NoTickWritesMemoryTimersOrParameters : ∃ t, step State.reset = .next t := by
  obtain ⟨t, h, _⟩ := next_of_after (o := step State.reset) (f := fun t => t.started) (by decide)
  exact ⟨t, h⟩

theorem witness_OnlyLdIWritesTheIndexRegister : ∃ t, exec (.ldIAddr 0xFFF#12) State.reset = .next t ∧ t.I ≠ State.reset.I :=
  ⟨_, rfl, by decide⟩

/-- A register that changes, by each of the four rows of the access table. -/
theorem witness_RegisterWritesFollowTheAccessTable :
    (∃ t, exec (.ldVByte 0#4 1#8) State.reset = .next t ∧ readReg t 0#4 ≠ readReg State.reset 0#4) ∧
    (∃ t, exec (.addVByte 0#4 1#8) State.reset = .next t ∧ readReg t 0#4 ≠ readReg State.reset 0#4) ∧
    (∃ t, exec (.addVByte 0#4 1#8) (writeReg withCarry 0#4 255#8) = .next t ∧
      readReg t 15#4 ≠ readReg (writeReg withCarry 0#4 255#8) 15#4) ∧
    (∃ t, exec (.drw 0#4 1#4 0#4) (writeReg State.reset 15#4 1#8) = .next t ∧
      readReg t 15#4 ≠ readReg (writeReg State.reset 15#4 1#8) 15#4) := by
  refine ⟨⟨_, rfl, by decide⟩, ⟨_, rfl, by decide⟩, ⟨_, rfl, by decide⟩, ?_⟩
  obtain ⟨t, h1, h2⟩ := next_of_after (o := exec (.drw 0#4 1#4 0#4) (writeReg State.reset 15#4 1#8))
    (f := fun t => readReg t 15#4 == 0#8) (by decide)
  refine ⟨t, h1, ?_⟩
  rw [show readReg t 15#4 = 0#8 by simpa using h2]; decide

theorem witness_PcAdvancesByTwo :
    ∃ t, exec (.ldIAddr 0#12) (State.reset.setPc 0xFFFF#16) = .next t ∧ t.out ≠ none ∧ ∀ nnn, Instr.ldIAddr 0#12 ≠ .jp nnn :=
  ⟨_, rfl, by decide, fun nnn h => by cases h⟩

/-- An even jump from an even address. -/
theorem witness_EvenPcIsKeptByEvenJumps :
    ∃ s t, step s = .next t ∧ s.pc.toNat % 2 = 0 ∧
      ∀ w nnn, fetch s = .ok w → decode w = .jp nnn → nnn.toNat % 2 = 0 := by
  obtain ⟨t, h, _⟩ := next_of_after (o := step (State.reset.withFetchWord 16 0x12A4)) (f := fun t => t.started) (by decide)
  refine ⟨_, t, h, by decide, fun w nnn hw hd => ?_⟩
  have hf : fetch (State.reset.withFetchWord 16 0x12A4) = .ok 0x12A4#16 := by rfl
  rw [hf] at hw
  cases hw
  have : decode 0x12A4#16 = .jp 0x2A4#12 := by decide
  rw [this] at hd
  cases hd; decide

/-- The highest address that a self-jump can stand at. -/
theorem witness_SelfJumpIsAFixedPoint :
    ∃ (s : State) (a : Addr12), a.toNat ≤ 0xFFE ∧ s.faulted = none ∧ s.pc = a.setWidth 16 ∧
      s.byteAt a.toNat = 0x1#4 ++ a.extractLsb' 8 4 ∧ s.byteAt (a.toNat + 1) = a.extractLsb' 0 8 :=
  ⟨(State.reset.setPc 0xFFE#16).setMem [(0xFFE, 0x1F#8), (0xFFF, 0xFE#8)], 0xFFE#12, by decide⟩

theorem witness_NoSelfJumpAtTheTop :
    ∃ s t : State, s.Inv ∧ 0 < s.cfg.fontBase.val ∧ s.cfg.addrOverflow = .wrap ∧ s.pc = 0xFFF#16 ∧ step s = .next t := by
  obtain ⟨t, h, _⟩ := next_of_after (o := step (State.reset.setPc 0xFFF#16)) (f := fun t => t.started) (by decide)
  exact ⟨State.reset.setPc 0xFFF#16, t, ⟨rfl, fun _ h => (by cases h), by decide, fun _ => ⟨rfl, rfl⟩, fun _ h => (by cases h),
    fun h => absurd rfl h, fun _ _ h => by cases h⟩, by decide, rfl, rfl, h⟩

/-- Both ends of the ROM region. -/
theorem witness_EmptyRomTicksClear :
    (State.reset.mem = [] ∧ State.reset.faulted = none ∧ romStart ≤ State.reset.pc.toNat ∧ State.reset.pc.toNat + 1 < memSize) ∧
    (romStart ≤ (State.reset.setPc 0xFFE#16).pc.toNat ∧ (State.reset.setPc 0xFFE#16).pc.toNat + 1 < memSize) := by decide

theorem witness_TimersAreNeverRead : ∃ t, step State.reset = .next t := witness_NoTickWritesMemoryTimersOrParameters

theorem witness_BookkeepingIsNeverRead : ∃ t, step State.reset = .next t ∧ t.faulted = none := by
  obtain ⟨t, h, h2⟩ := next_of_after (o := step State.reset) (f := fun t => t.faulted == none) (by decide)
  exact ⟨t, h, by simpa using h2⟩

/-- Each clause over an address: the font's first and last byte, and the bytes beside it. -/
theorem witness_ConstructionLeavesFontAndZeros :
    (0 < 80 ∧ 79 < 80) ∧ ((0x04F : Nat) < defaultParams.fontBase.val) ∧ (defaultParams.fontBase.val + 80 ≤ 0x0A0) := by decide

/-- A Load of 0 bytes, and of all 3584. -/
theorem witness_LoadCopiesIntoTheRomRegion :
    State.reset.Inv ∧ State.reset.faulted = none ∧ State.reset.started = false ∧ ([] : List Byte).length ≤ 3584 ∧
    (List.replicate 3584 0xAA#8).length ≤ 3584 :=
  ⟨reset_inv, rfl, rfl, by decide, by rw [List.length_replicate]⟩

theorem witness_OversizedLoadIsRejectedAtomically :
    (State.reset.faulted = none ∧ State.reset.started = false ∧ 3584 < (List.replicate 3585 0xAA#8).length) ∧
    ∃ a t, hostStep a State.reset = .next (t, .romTooLarge) := by
  refine ⟨⟨rfl, rfl, by rw [List.length_replicate]; decide⟩, .load (List.replicate 3585 0xAA#8), State.reset, ?_⟩
  simp only [hostStep, hostLoad, romFits, List.length_replicate]; rfl

theorem witness_LoadIsRefusedAfterATick :
    (∃ t, step State.reset = .next t ∧ t.faulted = none) ∧ (State.reset.faulted = none ∧ ([9#8] : List Byte).length ≤ 3584) ∧
    marked.faulted = some (.addressFault 0x1000) := ⟨witness_BookkeepingIsNeverRead, ⟨rfl, by decide⟩, rfl⟩

theorem witness_TimerTickCountsDownToZero :
    withTimers.cfg.timerDecrement = true ∧ State.reset.cfg.timerDecrement = false := ⟨rfl, rfl⟩

/-- A run of host actions without a construction, and the last address below the ROM start. -/
theorem witness_LowMemoryIsImmutable :
    ∃ t, (∀ q, HostAction.construct q ∉ [HostAction.load [0xFF#8], .reset, .readFramebuffer]) ∧
      runActions false [.load [0xFF#8], .reset, .readFramebuffer] (State.construct defaultParams) = .next t ∧ 0x1FF < 0x200 := by
  refine ⟨_, ?_, rfl, by decide⟩
  intro q h; simp at h

theorem witness_FaultMarkStaysUntilConstruction :
    ∃ t r, marked.faulted = some (.addressFault 0x1000) ∧ hostStep .reset marked = .next (t, r) ∧
      ∀ p, HostAction.reset ≠ .construct p := ⟨_, _, rfl, rfl, fun p h => by cases h⟩

theorem witness_RunStopsAtATickAfterARejectedLoad :
    State.reset.faulted = none ∧ State.reset.started = false ∧ 3584 < (List.replicate 3585 0#8).length ∧
    (List.replicate 3584 0#8).length ≤ 3584 :=
  ⟨rfl, rfl, by rw [List.length_replicate]; decide, by rw [List.length_replicate]⟩

/-- The three actions that keep the mark, each with a meaning, and a Tick that has one. -/
theorem witness_RunStopsAtATickAfterARejectedLoad_keeps :
    (∀ a ∈ [HostAction.reset, .readFramebuffer, .timerTick], ∃ t r, hostStep a withTimers = .next (t, r)) ∧
    ∃ t, step State.reset = .next t := by
  refine ⟨fun a h => ?_, witness_NoTickWritesMemoryTimersOrParameters⟩
  simp only [List.mem_cons, List.not_mem_nil, or_false] at h
  rcases h with rfl | rfl | rfl <;> exact ⟨_, _, rfl⟩

end Sys2Proof.Tests
end

section
/-! The decoder's arms (30_encoding.md rule R94): one equation per value of the top nibble, stated with the fields of
rule R18. No equation has a premise on any other bit of the word, so together they are the 16-way selection. -/

namespace Sys2Proof

section DecodeArms

variable {w : Word}

theorem decode_eq_cls (h : opField w = 0x0#4) : decode w = .cls (nnnField w) := by
  simp [decode, h]

theorem decode_eq_jp (h : opField w = 0x1#4) : decode w = .jp (nnnField w) := by
  simp [decode, h]

theorem decode_eq_unknown2 (h : opField w = 0x2#4) : decode w = .unknown2 (nnnField w) := by
  simp [decode, h]

theorem decode_eq_unknown3 (h : opField w = 0x3#4) : decode w = .unknown3 (nnnField w) := by
  simp [decode, h]

theorem decode_eq_unknown4 (h : opField w = 0x4#4) : decode w = .unknown4 (nnnField w) := by
  simp [decode, h]

theorem decode_eq_unknown5 (h : opField w = 0x5#4) : decode w = .unknown5 (nnnField w) := by
  simp [decode, h]

theorem decode_eq_ldVByte (h : opField w = 0x6#4) : decode w = .ldVByte (n1Field w) (kkField w) := by
  simp [decode, h]

theorem decode_eq_addVByte (h : opField w = 0x7#4) : decode w = .addVByte (n1Field w) (kkField w) := by
  simp [decode, h]

theorem decode_eq_unknown8 (h : opField w = 0x8#4) : decode w = .unknown8 (nnnField w) := by
  simp [decode, h]

theorem decode_eq_unknown9 (h : opField w = 0x9#4) : decode w = .unknown9 (nnnField w) := by
  simp [decode, h]

theorem decode_eq_ldIAddr (h : opField w = 0xA#4) : decode w = .ldIAddr (nnnField w) := by
  simp [decode, h]

theorem decode_eq_unknownB (h : opField w = 0xB#4) : decode w = .unknownB (nnnField w) := by
  simp [decode, h]

theorem decode_eq_unknownC (h : opField w = 0xC#4) : decode w = .unknownC (nnnField w) := by
  simp [decode, h]

theorem decode_eq_drw (h : opField w = 0xD#4) : decode w = .drw (n1Field w) (n2Field w) (n3Field w) := by
  simp [decode, h]

theorem decode_eq_unknownE (h : opField w = 0xE#4) : decode w = .unknownE (nnnField w) := by
  simp [decode, h]

theorem decode_eq_unknownF (h : opField w = 0xF#4) : decode w = .unknownF (nnnField w) := by
  simp [decode, h]

end DecodeArms

/-- Settles O4: each clause is one arm's equation, with the fields written as bits of the word. -/
theorem dispatchSelectsOnTopNibble : Obligations.DispatchSelectsOnTopNibble :=
  fun _ =>
    ⟨decode_eq_cls, decode_eq_jp, decode_eq_unknown2, decode_eq_unknown3, decode_eq_unknown4,
      decode_eq_unknown5, decode_eq_ldVByte, decode_eq_addVByte, decode_eq_unknown8, decode_eq_unknown9,
      decode_eq_ldIAddr, decode_eq_unknownB, decode_eq_unknownC, decode_eq_drw, decode_eq_unknownE,
      decode_eq_unknownF⟩

end Sys2Proof
end

section
/-! Clearing and jumping (41_clear_and_jump.md), after the rules they rest on: the top nibble of a masked word, the frame
of every instruction but DRW, and the addresses at which a fetch raises. -/

namespace Sys2Proof

/-- Masking with 0xF000 keeps a word's family and clears its operand bits (30_encoding.md rule R95). -/
theorem opField_eq_of_mask {w : Word} {f : Nibble} (h : w &&& 0xF000#16 = (f ++ 0x000#12 : BitVec (4 + 12))) :
    opField w = f := by
  have hones : opField 0xF000#16 = BitVec.allOnes 4 := by decide
  calc opField w = opField w &&& opField 0xF000#16 := by rw [hones, BitVec.and_allOnes]
    _ = opField (w &&& 0xF000#16) := BitVec.extractLsb'_and.symm
    _ = f := by rw [h, opField_append]

namespace Machine

/-! ### Every instruction but DRW, and the fetch -/

/-- Only a DRW can raise, so every other instruction completes with the quiet frame. -/
theorem exec_frame_of_ne_drw {i : Instr} {s t : State} (hi : ∀ x y n, i ≠ .drw x y n) (h : exec i s = .next t) :
    t.started = true ∧ QuietFrame s t := by
  obtain ⟨x, y, n, _, hdrw, _⟩ | ⟨hframe, _, hstarted, _⟩ := exec_cases h
  · exact absurd hdrw (hi x y n)
  · exact ⟨hstarted, hframe⟩

/-- The second byte's address decides alone: where the first lies past the space, so does the second (rule R111). -/
theorem fetch_raises_iff (s : State) :
    (∃ r, fetch s = .error r) ↔ s.cfg.addrOverflow = .fault ∧ memSize ≤ s.pc.toNat + 1 := by
  rw [fetch_eq]
  split
  next hfirst =>
    obtain ⟨hmode, hpast⟩ := hfirst
    exact iff_of_true ⟨_, rfl⟩ ⟨hmode, Nat.le_succ_of_le hpast⟩
  next =>
    split
    next hsecond => exact iff_of_true ⟨_, rfl⟩ hsecond
    next hsecond => exact iff_of_false (fun ⟨_, hr⟩ => by cases hr) hsecond

/-! ### The zero-extended address (rule R92) -/

@[simp] theorem zextAddr_toNat (nnn : Addr12) : (zextAddr nnn).toNat = nnn.toNat :=
  BitVec.toNat_setWidth_of_le (by decide)

theorem zextAddr_high (nnn : Addr12) : (zextAddr nnn).extractLsb' 12 4 = 0#4 := by
  apply BitVec.eq_of_toNat_eq
  rw [BitVec.extractLsb'_toNat, zextAddr_toNat, Nat.shiftRight_eq_zero _ _ nnn.isLt]
  rfl

theorem memSize_le_zextAddr_succ_iff (nnn : Addr12) : memSize ≤ (zextAddr nnn).toNat + 1 ↔ nnn = 0xFFF#12 := by
  rw [zextAddr_toNat, memSize]
  bv_omega

/-! ### The two instructions -/

theorem exec_cls (b : BitVec 12) (s : State) :
    exec (.cls b) s = .next (markChanged ((beginTick s).setFb blankFramebuffer)) := rfl

theorem exec_jp (nnn : Addr12) (s : State) : exec (.jp nnn) s = .next ((beginTick s).setPc (zextAddr nnn)) := rfl

/-- A jump to its own address takes back the advance of `pc`, so only the marks of the tick stay (rule R134). -/
theorem setPc_beginTick_self {s : State} {a : Word} (h : s.pc = a) :
    (beginTick s).setPc a = { s with started := true, out := some ⟨false, none⟩ } := by
  subst h; rfl

/-- The fetch after a jump raises only at 0xFFF, whose second byte would be the one past the space. -/
theorem fetch_after_jp_raises_iff (nnn : Addr12) (s : State) :
    (∃ r, fetch ((beginTick s).setPc (zextAddr nnn)) = .error r) ↔ s.cfg.addrOverflow = .fault ∧ nnn = 0xFFF#12 :=
  (fetch_raises_iff _).trans (and_congr_right' (memSize_le_zextAddr_succ_iff nnn))

end Machine

open Machine

/-- Settles O18: CLS writes the blank framebuffer over whatever stood there, and its other effects are the tick's. -/
theorem clsClearsAnyFramebuffer : Obligations.ClsClearsAnyFramebuffer := by
  refine ⟨fun w h => decode_eq_cls (opField_eq_of_mask h), fun b s => ⟨_, exec_cls b s, ?_⟩⟩
  obtain ⟨hstarted, hframe⟩ := exec_frame_of_ne_drw (fun _ _ _ => Instr.noConfusion) (exec_cls b s)
  have hregs : SameRegs s (markChanged ((beginTick s).setFb blankFramebuffer)) := fun j => by simp
  exact ⟨fun k _ => get_blank k, markChanged_out _, hregs, rfl, rfl, hstarted, hframe⟩

/-- Settles O19: JP writes its zero-extended address over the advanced `pc`, and its other effects are the tick's. -/
theorem jpSetsPcToItsAddress : Obligations.JpSetsPcToItsAddress := by
  refine ⟨fun w h => decode_eq_jp (opField_eq_of_mask h), fun nnn s => ⟨_, exec_jp nnn s, ?_⟩⟩
  obtain ⟨hstarted, hframe⟩ := exec_frame_of_ne_drw (fun _ _ _ => Instr.noConfusion) (exec_jp nnn s)
  have hregs : SameRegs s ((beginTick s).setPc (zextAddr nnn)) := fun j => by simp
  have hcells : SameCells s ((beginTick s).setPc (zextAddr nnn)) := fun _ _ _ _ => rfl
  exact ⟨rfl, zextAddr_toNat nnn, zextAddr_high nnn, rfl, setPc_beginTick_self, fetch_after_jp_raises_iff nnn s, hregs,
    rfl, hcells, hstarted, hframe⟩

end Sys2Proof
end

section
/-! Loading an immediate into a register or into the index register (42_register_immediate.md). -/

namespace Sys2Proof

namespace Machine

theorem exec_ldVByte (x : Reg) (kk : Byte) (s : State) :
    exec (.ldVByte x kk) s = .next (writeReg (beginTick s) x kk) := rfl

theorem exec_ldIAddr (nnn : Addr12) (s : State) :
    exec (.ldIAddr nnn) s = .next ((beginTick s).setI (zextAddr nnn)) := rfl

/-- Cells read the same wherever the framebuffer is the same. -/
theorem sameCells_of_fb_eq {s t : State} (h : t.fb = s.fb) : SameCells s t := fun row col _ _ =>
  congrArg (fun fb => fb.get (cellIndex row col)) h

end Machine

open Machine

/-- Settles O20: LD writes the one register it names, the flag register among them, and its other effects are the
tick's. -/
theorem ldVByteSetsItsRegister : Obligations.LdVByteSetsItsRegister := by
  refine ⟨fun w h => decode_eq_ldVByte (opField_eq_of_mask h), fun x kk s => ⟨_, exec_ldVByte x kk s, ?_⟩⟩
  obtain ⟨hstarted, hframe⟩ := exec_frame_of_ne_drw (fun _ _ _ => Instr.noConfusion) (exec_ldVByte x kk s)
  have hnamed : readReg (writeReg (beginTick s) x kk) x = kk := by simp
  have hothers : ∀ j, j ≠ x → readReg (writeReg (beginTick s) x kk) j = readReg s j := fun j hj => by simp [hj.symm]
  exact ⟨hnamed, hothers, writeReg_out .., writeReg_I .., sameCells_of_fb_eq (writeReg_fb ..), writeReg_pc .., hstarted,
    hframe⟩

/-- Settles O22: LD I writes its zero-extended address to the index register, and its other effects are the tick's. -/
theorem ldISetsTheIndexRegister : Obligations.LdISetsTheIndexRegister := by
  refine ⟨fun w h => decode_eq_ldIAddr (opField_eq_of_mask h), fun nnn s => ⟨_, exec_ldIAddr nnn s, ?_⟩⟩
  obtain ⟨hstarted, hframe⟩ := exec_frame_of_ne_drw (fun _ _ _ => Instr.noConfusion) (exec_ldIAddr nnn s)
  have hregs : SameRegs s ((beginTick s).setI (zextAddr nnn)) := fun j => by simp
  exact ⟨State.setI_I .., zextAddr_toNat nnn, zextAddr_high nnn, State.setI_out .., hregs,
    sameCells_of_fb_eq (State.setI_fb ..), State.setI_pc .., hstarted, hframe⟩

end Sys2Proof
end

section
/-! Drawing a sprite (43_sprite_draw.md). -/

namespace Sys2Proof

namespace Machine

/-- Everything a DRW can do (rule R160): its row loop raises, and the state before the tick stays but for the mark; or
the loop ends in a drawing, whose cells and collision flag are written and which reports `changed`. -/
theorem exec_drw_cases {x y : Reg} {h : Nibble} {s t : State} (ht : exec (.drw x y h) s = .next t) :
    (∃ r, drawRows s (originX s x) (originY s y) h.toNat 0 ⟨s.fb, false⟩ = .error r ∧ t = raised s r) ∨
    (∃ d, drawRows s (originX s x) (originY s y) h.toNat 0 ⟨s.fb, false⟩ = .ok d ∧
      t = markChanged (writeCollision ((beginTick s).setFb d.fb) d.hit)) := by
  simp only [exec, execDrw] at ht
  split at ht
  next r hr => rw [raise_eq] at ht; cases ht; exact .inl ⟨r, hr, rfl⟩
  next d hd => cases ht; exact .inr ⟨d, hd, rfl⟩

end Machine

open Machine

/-- Settles O27: a DRW that raises returns no outputs, and one that completes marks `changed` last, whatever its row
loop drew. -/
theorem drwAlwaysReportsChanged : Obligations.DrwAlwaysReportsChanged := by
  intro x y h s t o ht ho
  obtain ⟨r, -, rfl⟩ | ⟨d, -, rfl⟩ := exec_drw_cases ht
  · rw [raised_out] at ho; cases ho
  · rw [markChanged_out] at ho; cases ho; rfl

end Sys2Proof
end

section
/-! A rejected Load (60_exceptions.md rule R202). -/

namespace Sys2Proof

namespace Machine

/-- A Load is rejected exactly where it has a meaning and its bytes do not fit, and then the state stays
(20_memory.md rules R70 and R72). -/
theorem hostLoad_eq_romTooLarge_iff {data : List Byte} {s t : State} :
    hostLoad data s = .next (t, .romTooLarge) ↔
      s.faulted = none ∧ s.started = false ∧ romMax < data.length ∧ t = s := by
  unfold hostLoad
  split
  next hfaulted => simp [hfaulted]
  next hfaulted =>
    split
    next hstarted => simp [hstarted]
    next hstarted =>
      split
      next hfits => simp [Nat.not_lt.mpr (of_decide_eq_true hfits)]
      next hfits =>
        have hlong : romMax < data.length := Nat.lt_of_not_le (mt decide_eq_true hfits)
        simp [hfaulted, hstarted, hlong, eq_comm]

theorem tickResponse_ne_romTooLarge (t : State) : tickResponse t ≠ .romTooLarge := by
  unfold tickResponse
  split
  · exact Response.noConfusion
  · split <;> exact Response.noConfusion

/-- A tick's response is the one read off the state after it (40_engine.md rules R116 and R117). -/
theorem hostTick_response {s t : State} {r : Response} (h : hostTick s = .next (t, r)) : r = tickResponse t := by
  unfold hostTick at h
  split at h
  · cases h; rfl
  · cases h
  · cases h

/-- A TimerTick that exists answers nothing but the CORE itself (70_reset_and_hazards.md rule R240). -/
theorem hostTimerTick_response {s t : State} {r : Response} (h : hostTimerTick s = .next (t, r)) : r = .done := by
  unfold hostTimerTick at h
  split at h
  · cases h; rfl
  · cases h

/-- Of the six host actions only a Load answers RomTooLarge (rule R202). -/
theorem hostStep_romTooLarge_is_load {a : HostAction} {s t : State} (h : hostStep a s = .next (t, .romTooLarge)) :
    ∃ data, a = .load data ∧ hostLoad data s = .next (t, .romTooLarge) := by
  cases a with
  | construct p => cases h
  | load data => exact ⟨data, rfl, h⟩
  | reset => cases h
  | tick => exact absurd (hostTick_response h).symm (tickResponse_ne_romTooLarge t)
  | readFramebuffer => cases h
  | timerTick => cases hostTimerTick_response h

end Machine

open Machine

/-- Settles O47: a Load is rejected only where its bytes do not fit and the state stays, so the tick after it starts
from the state before. -/
theorem oversizedLoadIsRejectedAtomically : Obligations.OversizedLoadIsRejectedAtomically := by
  refine ⟨fun s data hfaulted hstarted hlong => ?_, fun a s t h => ?_⟩
  · exact hostLoad_eq_romTooLarge_iff.mpr ⟨hfaulted, hstarted, hlong, rfl⟩
  · obtain ⟨data, ha, hload⟩ := hostStep_romTooLarge_is_load h
    obtain ⟨-, -, hlong, rfl⟩ := hostLoad_eq_romTooLarge_iff.mp hload
    exact ⟨rfl, ⟨data, ha, hlong⟩, rfl⟩

end Sys2Proof
end

section
/-! The decoder and the encoder against each other, and both against the encoding table and the listings
(30_encoding.md). -/

namespace Sys2Proof

/-! ### The operand fields of a word put together from its parts (rule R91) -/

theorem n1Field_append (f : Nibble) (b : BitVec 12) : n1Field (f ++ b) = b.extractLsb' 8 4 :=
  BitVec.extractLsb'_append_eq_of_add_le (by decide)

theorem n2Field_append (f : Nibble) (b : BitVec 12) : n2Field (f ++ b) = b.extractLsb' 4 4 :=
  BitVec.extractLsb'_append_eq_of_add_le (by decide)

theorem n3Field_append (f : Nibble) (b : BitVec 12) : n3Field (f ++ b) = b.extractLsb' 0 4 :=
  BitVec.extractLsb'_append_eq_of_add_le (by decide)

theorem kkField_append (f : Nibble) (b : BitVec 12) : kkField (f ++ b) = b.extractLsb' 0 8 :=
  BitVec.extractLsb'_append_eq_of_add_le (by decide)

/-- Format XK. -/
theorem fields_of_xk (f : Nibble) (x : Reg) (kk : Byte) :
    n1Field (f ++ (x ++ kk : BitVec 12)) = x ∧ kkField (f ++ (x ++ kk : BitVec 12)) = kk :=
  ⟨(n1Field_append _ _).trans BitVec.extractLsb'_append_eq_left,
    (kkField_append _ _).trans BitVec.extractLsb'_append_eq_right⟩

/-- Format XYN. -/
theorem fields_of_xyn (f : Nibble) (x y : Reg) (n : Nibble) :
    n1Field (f ++ (x ++ y ++ n : BitVec 12)) = x ∧ n2Field (f ++ (x ++ y ++ n : BitVec 12)) = y ∧
      n3Field (f ++ (x ++ y ++ n : BitVec 12)) = n := by
  refine ⟨?_, ?_, ?_⟩
  · rw [n1Field_append, BitVec.extractLsb'_append_eq_of_le (by decide)]
    exact BitVec.extractLsb'_append_eq_left
  · rw [n2Field_append, BitVec.extractLsb'_append_eq_of_le (by decide)]
    exact BitVec.extractLsb'_append_eq_right
  · rw [n3Field_append]
    exact BitVec.extractLsb'_append_eq_right

/-! ### The two round trips -/

/-- The dispatch reads the family, and each arm takes back the operand fields that its format put together. -/
theorem decode_encode (i : Instr) : decode (encode i) = i := by
  have hfamily : opField (encode i) = i.family := opField_append _ _
  have hbits : nnnField (encode i) = i.operandBits := nnnField_append _ _
  cases i with
  | cls b => rw [decode_eq_cls hfamily, hbits, Instr.operandBits]
  | jp nnn => rw [decode_eq_jp hfamily, hbits, Instr.operandBits]
  | unknown2 b => rw [decode_eq_unknown2 hfamily, hbits, Instr.operandBits]
  | unknown3 b => rw [decode_eq_unknown3 hfamily, hbits, Instr.operandBits]
  | unknown4 b => rw [decode_eq_unknown4 hfamily, hbits, Instr.operandBits]
  | unknown5 b => rw [decode_eq_unknown5 hfamily, hbits, Instr.operandBits]
  | ldVByte x kk =>
    obtain ⟨hx, hkk⟩ := fields_of_xk 0x6#4 x kk
    rw [decode_eq_ldVByte hfamily, encode, Instr.family, Instr.operandBits, hx, hkk]
  | addVByte x kk =>
    obtain ⟨hx, hkk⟩ := fields_of_xk 0x7#4 x kk
    rw [decode_eq_addVByte hfamily, encode, Instr.family, Instr.operandBits, hx, hkk]
  | unknown8 b => rw [decode_eq_unknown8 hfamily, hbits, Instr.operandBits]
  | unknown9 b => rw [decode_eq_unknown9 hfamily, hbits, Instr.operandBits]
  | ldIAddr nnn => rw [decode_eq_ldIAddr hfamily, hbits, Instr.operandBits]
  | unknownB b => rw [decode_eq_unknownB hfamily, hbits, Instr.operandBits]
  | unknownC b => rw [decode_eq_unknownC hfamily, hbits, Instr.operandBits]
  | drw x y n =>
    obtain ⟨hx, hy, hn⟩ := fields_of_xyn 0xD#4 x y n
    rw [decode_eq_drw hfamily, encode, Instr.family, Instr.operandBits, hx, hy, hn]
  | unknownE b => rw [decode_eq_unknownE hfamily, hbits, Instr.operandBits]
  | unknownF b => rw [decode_eq_unknownF hfamily, hbits, Instr.operandBits]

/-- Each arm of the decoder keeps the top nibble that selected it (rule R94); the last arm is left with 0xF alone. -/
theorem decode_family (w : Word) : (decode w).family = opField w := by
  apply BitVec.eq_of_toNat_eq
  unfold decode
  split
  case h_16 =>
    have hlt : (opField w).toNat < 16 := (opField w).isLt
    simp only [imp_false] at *
    change 15 = _
    omega
  all_goals exact Eq.symm ‹_›

/-- Each arm of the decoder keeps all the bits below the top nibble. -/
theorem decode_operandBits (w : Word) : (decode w).operandBits = nnnField w := by
  unfold decode
  split
  case h_7 => exact n1Field_append_kkField w
  case h_8 => exact n1Field_append_kkField w
  case h_14 => exact n1Field_append_n2Field_append_n3Field w
  all_goals rfl

theorem encode_decode (w : Word) : encode (decode w) = w := by
  rw [encode, decode_family, decode_operandBits]
  exact opField_append_nnnField w

/-- Settles O1: the decoder reads back the word that the two bytes hold, and decoding a word undoes encoding it. -/
theorem decodeInvertsEncode : Obligations.DecodeInvertsEncode := by
  intro i rest _
  rw [encodeBytes, decodeBytes_wordBytes, decode_encode]

/-- Settles O2: the decoded instruction keeps the family and the operand bits, and these two are the word. -/
theorem encodeInvertsDecode : Obligations.EncodeInvertsDecode := encode_decode

/-! ### The encoding table (rule R95) -/

/-- A row masked with 0xF000 selects a word by its top nibble alone. -/
theorem matches_eq_matches_family (w : Word) (row : OpcodeRow) (hmask : row.mask = 0xF000#16) :
    row.matches w = row.matches (opField w ++ 0x000#12 : BitVec (4 + 12)) := by
  have hfamily : w &&& 0xF000#16 = (opField w ++ 0x000#12 : BitVec (4 + 12)) &&& 0xF000#16 := by
    have hmaskParts : 0xF000#16 = (BitVec.allOnes 4 ++ 0x000#12 : BitVec (4 + 12)) := by decide
    conv_lhs => rw [← opField_append_nnnField w]
    rw [hmaskParts, BitVec.and_append, BitVec.and_append, BitVec.and_zero, BitVec.and_zero]
  rw [OpcodeRow.matches, OpcodeRow.matches, hmask, hfamily]

/-- The mnemonic of a word's instruction is decided by the top nibble alone. -/
theorem decode_mnemonic_eq_family (w : Word) :
    (decode w).mnemonic = (decode (opField w ++ 0x000#12 : BitVec (4 + 12))).mnemonic := by
  unfold decode
  rw [opField_append]
  split <;> rfl

/-- The table has exactly one row for each of the 16 families, named as the decoder's arm. -/
theorem opcodeTable_row_of_family : ∀ f : Nibble,
    (opcodeTable.filter fun row => row.matches (f ++ 0x000#12 : BitVec (4 + 12))).map OpcodeRow.mnemonic =
      [(decode (f ++ 0x000#12 : BitVec (4 + 12))).mnemonic] := by
  decide

theorem opcodeTable_mask : ∀ row ∈ opcodeTable, row.mask = 0xF000#16 := by decide

/-- Settles O3: rows and mnemonic depend on the top nibble alone, and each of its 16 values has one row. -/
theorem everyWordMatchesItsRowOnly : Obligations.EveryWordMatchesItsRowOnly := by
  intro w
  have hrows : (opcodeTable.filter fun row => row.matches w) =
      opcodeTable.filter fun row => row.matches (opField w ++ 0x000#12 : BitVec (4 + 12)) :=
    List.filter_congr fun row hrow => matches_eq_matches_family w row (opcodeTable_mask row hrow)
  rw [hrows, decode_mnemonic_eq_family]
  exact opcodeTable_row_of_family _

/-- Settles O5: seven words of the spec's vectors, each run through the decoder. -/
theorem specWordsDecode : Obligations.SpecWordsDecode := by
  unfold Obligations.SpecWordsDecode
  decide

/-! ### Listings (rule R99) -/

namespace Machine

/-- A listing of one line is that line's bytes. -/
theorem assemble_singleton {base : Nat} {l : Line} {bytes : List Byte} (h : l.emit base [l] = some bytes) :
    assemble base [l] = some bytes := by
  simp [assemble, emitLines, h]

/-- The words of the unknown families are printed raw. -/
theorem disassemble_of_unknownFamily {w : Word} (h : unknownFamily (opField w) = true) : disassemble w = .unk w := by
  rw [← decode_family] at h
  unfold disassemble
  cases hi : decode w <;> rw [hi] at h
  case cls | jp | ldVByte | addVByte | ldIAddr | drw => exact absurd h Bool.false_ne_true

/-- The other words but those of family 0x0 are printed as the line of their instruction, which stands for its word. -/
theorem emit_disassemble_of_known {w : Word} (base : Nat) (all : List Line) (hzero : opField w ≠ 0x0#4)
    (hknown : unknownFamily (opField w) ≠ true) : (disassemble w).emit base all = some (encodeBytes (decode w)) := by
  rw [← decode_family] at hzero hknown
  unfold disassemble
  cases hi : decode w <;> rw [hi] at hzero hknown
  case cls => exact absurd rfl hzero
  case jp | ldVByte | addVByte | ldIAddr | drw => rfl
  all_goals exact absurd rfl hknown

end Machine

open Machine

/-- Settles O6: a word of family 0x0 is emitted as 0x00E0, one of an unknown family raw, and every other line is emitted
as its instruction, whose word it is. -/
theorem listingRoundTrip : Obligations.ListingRoundTrip := by
  intro base w
  apply assemble_singleton
  by_cases hzero : opField w = 0x0#4
  · have hline : disassemble w = .cls := by rw [disassemble, decode_eq_cls hzero]
    rw [hline, if_pos hzero]
    rfl
  · rw [if_neg hzero]
    by_cases hunknown : unknownFamily (opField w) = true
    · rw [disassemble_of_unknownFamily hunknown, Line.emit, if_pos hunknown]
    · rw [emit_disassemble_of_known base _ hzero hunknown, encodeBytes, encode_decode]

end Sys2Proof
end

section
/-! What each instruction writes and returns, one lemma per field, and the claims about single fields
(10_state.md sections 1 to 3, 40_engine.md section 2, 44_unknown_opcode.md). -/

namespace Sys2Proof

/-- The instructions that write the framebuffer (10_state.md rule R44): CLS and DRW. -/
def Instr.draws : Instr → Bool
  | .cls _ => true
  | .drw _ _ _ => true
  | _ => false

theorem Instr.draws_iff (i : Instr) : i.draws = true ↔ (∃ b, i = .cls b) ∨ ∃ x y h, i = .drw x y h := by
  cases i <;> simp [Instr.draws]

namespace Machine

/-- What a tick of `i` returns when it completes (rules R117, R191). -/
def tickOutput (i : Instr) (s : State) : TickOutput :=
  ⟨i.draws, if unknownFamily i.family then some ⟨encode i, fetchAddr s⟩ else none⟩

theorem exec_addVByte (x : Reg) (kk : Byte) (s : State) :
    exec (.addVByte x kk) s =
      .next (writeCarry (writeReg (beginTick s) x (wrapSum (readReg s x) kk)) (carryOut (readReg s x) kk)) := rfl

/-- The ten unknown families have one meaning: the common start of a tick and the report of their own word. -/
theorem exec_unknown {i : Instr} (h : unknownFamily i.family = true) (s : State) :
    exec i s = .next (reportUnknown (beginTick s) (encode i) (fetchAddr s)) := by
  cases i
  case cls | jp | ldVByte | addVByte | ldIAddr | drw => exact absurd h Bool.false_ne_true
  all_goals rfl

section Effects

variable {i : Instr} {s t : State}

/-- A tick returns nothing when it raises, and else what its instruction says. -/
theorem exec_out (h : exec i s = .next t) : t.out = none ∨ t.out = some (tickOutput i s) := by
  cases i with
  | drw x y n =>
    obtain ⟨r, -, rfl⟩ | ⟨d, -, rfl⟩ := exec_drw_cases h
    · exact .inl (raised_out s r)
    · exact .inr (markChanged_out _)
  | addVByte x kk => cases h; exact .inr (writeCarry_out _ _)
  | _ => cases h; exact .inr rfl

/-- Only LD I writes the index register. -/
theorem exec_I (h : exec i s = .next t) : t.I = s.I ∨ ∃ nnn, i = .ldIAddr nnn ∧ t.I = zextAddr nnn := by
  cases i with
  | drw x y n => obtain ⟨r, -, rfl⟩ | ⟨d, -, rfl⟩ := exec_drw_cases h <;> exact .inl (by simp)
  | addVByte x kk => cases h; exact .inl (writeCarry_I _ _)
  | ldIAddr nnn => cases h; exact .inr ⟨nnn, rfl, rfl⟩
  | _ => cases h; exact .inl rfl

/-- `pc` stays where the tick raises, takes JP's target, and else advances by 2. -/
theorem exec_pc (h : exec i s = .next t) :
    (t.out = none ∧ t.pc = s.pc) ∨ t.pc = s.pc + 2#16 ∨ ∃ nnn, i = .jp nnn ∧ t.pc = zextAddr nnn := by
  cases i with
  | drw x y n =>
    obtain ⟨r, -, rfl⟩ | ⟨d, -, rfl⟩ := exec_drw_cases h
    · exact .inl ⟨raised_out s r, raised_pc s r⟩
    · exact .inr (.inl (by simp))
  | addVByte x kk => cases h; exact .inr (.inl (writeCarry_pc _ _))
  | jp nnn => cases h; exact .inr (.inr ⟨nnn, rfl, rfl⟩)
  | _ => cases h; exact .inr (.inl rfl)

/-- Only CLS and DRW write the framebuffer. -/
theorem exec_fb (h : exec i s = .next t) (hi : i.draws = false) : t.fb = s.fb := by
  cases i with
  | cls b => cases hi
  | drw x y n => cases hi
  | addVByte x kk => cases h; exact writeCarry_fb _ _
  | _ => cases h; rfl

end Effects

theorem fetchAddr_eq (s : State) : fetchAddr s = BitVec.ofNat 12 (s.pc.toNat % 4096) := by
  apply BitVec.eq_of_toNat_eq
  simp [fetchAddr]

/-- An instruction of an unknown family reports its word and is otherwise the common start of a tick (rule R190). -/
theorem exec_unknown_frame {i : Instr} (h : unknownFamily i.family = true) (s : State) :
    ∃ t, exec i s = .next t ∧ t.out = some ⟨false, some ⟨encode i, fetchAddr s⟩⟩ ∧
      SameRegs s t ∧ t.I = s.I ∧ SameCells s t ∧ t.pc = s.pc + 2#16 ∧ t.started = true ∧ QuietFrame s t := by
  have hnot : ∀ x y n, i ≠ .drw x y n := by rintro x y n rfl; exact absurd h Bool.false_ne_true
  obtain ⟨hstarted, hframe⟩ := exec_frame_of_ne_drw hnot (exec_unknown h s)
  have hregs : SameRegs s (reportUnknown (beginTick s) (encode i) (fetchAddr s)) := fun j => by simp
  exact ⟨_, exec_unknown h s, reportUnknown_out .., hregs, rfl, sameCells_of_fb_eq rfl, rfl, hstarted, hframe⟩

end Machine

open Machine

/-- Settles O32: the outputs of a tick that completes are those of its instruction. -/
theorem outputsFollowTheArm : Obligations.OutputsFollowTheArm := by
  intro i s t o ht ho
  have hout : o = tickOutput i s := by
    rcases exec_out ht with hnone | hsome
    · rw [hnone] at ho; cases ho
    · exact Option.some_injective _ (ho.symm.trans hsome)
  subst hout
  refine ⟨i.draws_iff, ?_⟩
  simp [tickOutput]

/-- Settles O35: the one instruction that writes `I` writes its zero-extended address. -/
theorem onlyLdIWritesTheIndexRegister : Obligations.OnlyLdIWritesTheIndexRegister := by
  intro i s t ht hne
  obtain hsame | ⟨nnn, hi, hI⟩ := exec_I ht
  · exact absurd hsame hne
  · exact ⟨nnn, hi, by rw [hI, zextAddr_toNat]⟩

/-- Settles O36: LD and ADD write the register they name, and the two flag writes go to x[15]. -/
theorem registerWritesFollowTheAccessTable : Obligations.RegisterWritesFollowTheAccessTable := by
  intro i s t j ht hne
  cases i with
  | ldVByte x kk =>
    cases ht
    have hx : x = j := by by_contra hx; exact hne (by simp [hx])
    exact .inl ⟨kk, by rw [hx]⟩
  | addVByte x kk =>
    cases ht
    by_cases hx : x = j
    · exact .inr (.inl ⟨kk, by rw [hx]⟩)
    · have hflag : s.cfg.addCarry = true ∧ flagReg = j := by
        by_contra hflag
        exact hne (by simp [hx, hflag])
      exact .inr (.inr (.inl ⟨hflag.2.symm, hflag.1, x, kk, rfl⟩))
  | drw x y n =>
    obtain ⟨r, -, rfl⟩ | ⟨d, -, rfl⟩ := exec_drw_cases ht
    · exact absurd (readReg_congr (raised_x s r) j) hne
    · have hflag : s.cfg.vfCollision = true ∧ flagReg = j := by by_contra hflag; exact hne (by simp [hflag])
      exact .inr (.inr (.inr ⟨hflag.2.symm, hflag.1, x, y, n, rfl⟩))
  | _ => cases ht; exact absurd rfl hne

/-- Settles O37: an instruction that returns outputs did not raise, so its `pc` is JP's target or the advanced one. -/
theorem pcAdvancesByTwo : Obligations.PcAdvancesByTwo := by
  intro i s t ht hout hjp
  obtain ⟨hnone, -⟩ | hpc | ⟨nnn, hi, -⟩ := exec_pc ht
  · exact absurd hnone hout
  · rw [hpc, BitVec.toNat_add]; rfl
  · exact absurd hi (hjp nnn)

/-- Settles O21: ADD writes the wrapped sum and then, with ADD_CARRY, the carry; its other effects are the tick's. -/
theorem addVByteWrapsAndCarries : Obligations.AddVByteWrapsAndCarries := by
  intro x kk s
  refine ⟨_, exec_addVByte x kk s, ?_⟩
  obtain ⟨hstarted, hframe⟩ := exec_frame_of_ne_drw (fun _ _ _ => Instr.noConfusion) (exec_addVByte x kk s)
  have hread : ∀ j, readReg
      (writeCarry (writeReg (beginTick s) x (wrapSum (readReg s x) kk)) (carryOut (readReg s x) kk)) j =
        if s.cfg.addCarry = true ∧ flagReg = j then flagByte (carryOut (readReg s x) kk)
        else if x = j then wrapSum (readReg s x) kk else readReg s j := fun j => by simp
  refine ⟨fun hx => ?_, fun hcarry => ?_, fun j hj hflag => ?_, ?_, ?_, sameCells_of_fb_eq ?_, ?_, hstarted, hframe⟩
  · rw [hread, if_neg fun h => hx h.1 h.2.symm, if_pos rfl, wrapSum_toNat]
  · rw [hread, if_pos ⟨hcarry, rfl⟩]; simp [flagByte, carryOut, exactSum]
  · rw [hread, if_neg fun h => hflag h.1 h.2.symm, if_neg (Ne.symm hj)]
  all_goals simp

/-- Settles O30: the ten instructions are those of the unknown families, each paired with its own word. -/
theorem unknownFamiliesOnlyReport : Obligations.UnknownFamiliesOnlyReport := by
  intro b s i w hmem
  have hpair : unknownFamily i.family = true ∧ w = encode i := by
    simp only [List.mem_cons, Prod.mk.injEq, List.not_mem_nil, or_false] at hmem
    obtain ⟨rfl, rfl⟩ | ⟨rfl, rfl⟩ | ⟨rfl, rfl⟩ | ⟨rfl, rfl⟩ | ⟨rfl, rfl⟩ | ⟨rfl, rfl⟩ | ⟨rfl, rfl⟩ | ⟨rfl, rfl⟩ |
      ⟨rfl, rfl⟩ | ⟨rfl, rfl⟩ := hmem <;> exact ⟨rfl, rfl⟩
  obtain ⟨hunknown, rfl⟩ := hpair
  rw [← fetchAddr_eq]
  exact exec_unknown_frame hunknown s

end Sys2Proof
end

section
/-! Fetch, tick and step (40_engine.md), and the rules that hold of every step whatever it executes. -/

namespace Sys2Proof

namespace Machine

/-! ### Where a fetch completes -/

/-- A fetch raises only under ADDR_OVERFLOW = fault and only past the space (rules R65, R111). -/
theorem fetch_of_inside {s : State} (h : s.cfg.addrOverflow = .fault → s.pc.toNat + 1 < memSize) :
    fetch s = .ok (catBytes (s.byteAt (s.pc.toNat % memSize)) (s.byteAt ((s.pc.toNat + 1) % memSize))) := by
  rw [fetch_eq, if_neg, if_neg]
  all_goals
    rintro ⟨hfault, hpast⟩
    have := h hfault
    omega

theorem fetch_of_lt {s : State} (h : s.pc.toNat + 1 < memSize) :
    fetch s = .ok (catBytes (s.byteAt s.pc.toNat) (s.byteAt (s.pc.toNat + 1))) := by
  rw [fetch_of_inside fun _ => h, Nat.mod_eq_of_lt h, Nat.mod_eq_of_lt (by omega)]

/-- The first address past the space is the one reported: `pc` before `pc + 1` (rule R111). -/
theorem fetch_past_top {s : State} (hfault : s.cfg.addrOverflow = .fault) (hpast : memSize ≤ s.pc.toNat + 1) :
    fetch s = .error (.addressFault (if memSize ≤ s.pc.toNat then s.pc.toNat else s.pc.toNat + 1)) := by
  rw [fetch_eq]
  by_cases hpc : memSize ≤ s.pc.toNat
  · rw [if_pos ⟨hfault, hpc⟩, if_pos hpc]
  · rw [if_neg (fun h => hpc h.2), if_pos ⟨hfault, hpast⟩, if_neg hpc]

/-! ### Which faults can be raised, and all that a step can do -/

theorem fetch_error_possible {s : State} {r : FaultReason} (h : fetch s = .error r) :
    faultPossible s.cfg r = true := by
  obtain ⟨hfault, hpast⟩ := (fetch_raises_iff s).mp ⟨r, h⟩
  rw [fetch_past_top hfault hpast] at h
  cases h
  split <;> simp [faultPossible, *]

theorem drawRows_error_possible {s : State} {x0 y0 n r : Nat} {d : Draw} {e : FaultReason}
    (h : drawRows s x0 y0 n r d = .error e) : faultPossible s.cfg e = true := by
  obtain ⟨q, -, -, ⟨hmode, hpast, rfl⟩ | ⟨hmode, hpast, rfl⟩⟩ := drawRows_error h
  · simp [faultPossible, hmode, hpast]
  · simp [faultPossible, hmode, hpast]

/-- A choice of the parameters under which nothing raises, the defaults among them (60_exceptions.md rule R201). -/
theorem not_faultPossible {p : Params} (haddr : p.addrOverflow = .wrap) (hrow : p.verticalMode ≠ .fault)
    (r : FaultReason) : faultPossible p r = false := by
  cases r <;> simp [faultPossible, haddr, hrow]

/-- Everything a step of a CORE that is not faulted can do: raise for a possible reason and keep the state before it
but for the mark; or execute the fetched word to its end, with the quiet frame and that word's outputs. -/
theorem step_next_cases {s t : State} (h : step s = .next t) :
    s.faulted = none ∧
      ((∃ r, faultPossible s.cfg r = true ∧ t = raised s r) ∨
        ∃ w, fetch s = .ok w ∧ exec (decode w) s = .next t ∧ QuietFrame s t ∧ t.mem = s.mem ∧ t.started = true ∧
          t.out = some (tickOutput (decode w) s)) := by
  obtain ⟨hfaulted, ⟨r, hr, rfl⟩ | ⟨w, hw, ht⟩⟩ := step_cases h
  · exact ⟨hfaulted, .inl ⟨r, fetch_error_possible hr, rfl⟩⟩
  · obtain ⟨x, y, n, r, -, hr, rfl⟩ | ⟨hframe, hmem, hstarted, o, ho⟩ := exec_cases ht
    · exact ⟨hfaulted, .inl ⟨r, drawRows_error_possible hr, rfl⟩⟩
    · have hout : t.out = some (tickOutput (decode w) s) :=
        (exec_out ht).resolve_left (by rw [ho]; exact Option.some_ne_none o)
      exact ⟨hfaulted, .inr ⟨w, hw, ht, hframe, hmem, hstarted, hout⟩⟩

theorem step_total {s : State} (h : s.faulted = none) : ∃ t, step s = .next t := by
  cases hw : fetch s with
  | error r => exact ⟨_, step_of_fetch_error h hw⟩
  | ok w => rw [step_of_fetch h hw]; exact exec_total (decode w) s

/-- A step, raised or completed, leaves memory, timers and parameters (rules R40, R42, R63). -/
theorem step_keeps {s t : State} (h : step s = .next t) :
    t.mem = s.mem ∧ t.dt = s.dt ∧ t.st = s.st ∧ t.cfg = s.cfg := by
  obtain ⟨-, ⟨r, -, rfl⟩ | ⟨w, -, -, hframe, hmem, -, -⟩⟩ := step_next_cases h
  · exact ⟨raised_mem s r, raised_dt s r, raised_st s r, raised_cfg s r⟩
  · exact ⟨hmem, hframe.dt, hframe.st, hframe.cfg⟩

/-! ### What a tick reads -/

/-- A fetch depends on `pc`, the bytes of memory and the parameters alone. -/
theorem fetch_congr {s u : State} (hpc : u.pc = s.pc) (hbytes : ∀ a, u.byteAt a = s.byteAt a) (hcfg : u.cfg = s.cfg) :
    fetch u = fetch s := by
  simp only [fetch_eq, hpc, hbytes, hcfg]

/-- The row loop of a DRW depends on `I`, the bytes of memory and the parameters alone. -/
theorem drawRows_congr {s u : State} (hI : u.I = s.I) (hbytes : ∀ a, u.byteAt a = s.byteAt a) (hcfg : u.cfg = s.cfg)
    (x0 y0 n r : Nat) (d : Draw) : drawRows u x0 y0 n r d = drawRows s x0 y0 n r d := by
  induction n generalizing r d with
  | zero => rfl
  | succ n ih => simp only [drawRows, memReadEff_eq, hI, hbytes, hcfg, ih]

theorem exec_drw_of_ok {x y : Reg} {h : Nibble} {s : State} {d : Draw}
    (hd : drawRows s (originX s x) (originY s y) h.toNat 0 ⟨s.fb, false⟩ = .ok d) :
    exec (.drw x y h) s = .next (markChanged (writeCollision ((beginTick s).setFb d.fb) d.hit)) := by
  simp only [exec, execDrw, hd]

theorem exec_drw_of_error {x y : Reg} {h : Nibble} {s : State} {r : FaultReason}
    (hr : drawRows s (originX s x) (originY s y) h.toNat 0 ⟨s.fb, false⟩ = .error r) :
    exec (.drw x y h) s = .next (raised s r) := by
  simp only [exec, execDrw, hr, raise_eq]

theorem writeCarry_setTimers (s : State) (c : Bool) (d e : Byte) :
    writeCarry (s.setTimers d e) c = (writeCarry s c).setTimers d e := by
  unfold writeCarry
  rw [State.setTimers_cfg]
  split <;> rfl

theorem writeCollision_setTimers (s : State) (c : Bool) (d e : Byte) :
    writeCollision (s.setTimers d e) c = (writeCollision s c).setTimers d e := by
  unfold writeCollision
  rw [State.setTimers_cfg]
  split <;> rfl

/-- No instruction reads a timer (rule R40): values put into the timers are carried through. -/
theorem exec_setTimers {i : Instr} {s t : State} (d e : Byte) (h : exec i s = .next t) :
    exec i (s.setTimers d e) = .next (t.setTimers d e) := by
  cases i with
  | drw x y n =>
    have hrows := drawRows_congr (u := s.setTimers d e) (s := s) rfl (fun _ => rfl) rfl (originX s x) (originY s y)
      n.toNat 0 ⟨s.fb, false⟩
    obtain ⟨r, hr, rfl⟩ | ⟨p, hp, rfl⟩ := exec_drw_cases h
    · exact exec_drw_of_error (hrows.trans hr)
    · refine (exec_drw_of_ok (hrows.trans hp)).trans (congrArg Host.Outcome.next ?_)
      exact congrArg markChanged (writeCollision_setTimers ((beginTick s).setFb p.fb) p.hit d e)
  | addVByte x kk =>
    cases h
    exact congrArg Host.Outcome.next
      (writeCarry_setTimers (writeReg (beginTick s) x (wrapSum (readReg s x) kk)) (carryOut (readReg s x) kk) d e)
  | _ => cases h; rfl

/-- No instruction reads the outputs of the tick before it (rule R117): each writes them first, or empties them. -/
theorem exec_setOut (i : Instr) (s : State) (o : Option TickOutput) : exec i (s.setOut o) = exec i s := by
  cases i with
  | drw x y n =>
    have hrows := drawRows_congr (u := s.setOut o) (s := s) rfl (fun _ => rfl) rfl (originX s x) (originY s y)
      n.toNat 0 ⟨s.fb, false⟩
    cases hd : drawRows s (originX s x) (originY s y) n.toNat 0 ⟨s.fb, false⟩ with
    | error r => exact (exec_drw_of_error (hrows.trans hd)).trans (exec_drw_of_error hd).symm
    | ok p => exact (exec_drw_of_ok (hrows.trans hd)).trans (exec_drw_of_ok hd).symm
  | _ => rfl

/-- An instruction that completes does not read `started` (rule R119): it writes it first. -/
theorem exec_setStarted {i : Instr} {s t : State} (b : Bool) (h : exec i s = .next t) (hout : t.out ≠ none) :
    exec i (s.setStarted b) = .next t := by
  cases i with
  | drw x y n =>
    have hrows := drawRows_congr (u := s.setStarted b) (s := s) rfl (fun _ => rfl) rfl (originX s x) (originY s y)
      n.toNat 0 ⟨s.fb, false⟩
    obtain ⟨r, -, rfl⟩ | ⟨p, hp, rfl⟩ := exec_drw_cases h
    · exact absurd (raised_out s r) hout
    · exact exec_drw_of_ok (hrows.trans hp)
  | _ => exact h

/-! ### Bytes that are known, and jumps in place -/

theorem unlistedByte_above_font {p : Params} {a : Nat} (h : p.fontBase.val + fontSize ≤ a) :
    unlistedByte p a = 0x00#8 :=
  if_neg fun hfont => absurd hfont.2 (Nat.not_lt.mpr h)

theorem unlistedByte_below_font {p : Params} {a : Nat} (h : a < p.fontBase.val) : unlistedByte p a = 0x00#8 :=
  if_neg fun hfont => absurd hfont.1 (Nat.not_le.mpr h)

/-- The font ends below the ROM start (rule R9). -/
theorem font_below_rom (p : Params) : p.fontBase.val + fontSize ≤ romStart := by
  have := p.fontBase.isLt
  simp only [romStart, fontSize] at *
  omega

/-- The two bytes of a JP word. -/
theorem catBytes_jp (a : Addr12) : catBytes (0x1#4 ++ a.extractLsb' 8 4) (a.extractLsb' 0 8) = encode (.jp a) :=
  calc catBytes (0x1#4 ++ a.extractLsb' 8 4) (a.extractLsb' 0 8)
      = (0x1#4 ++ (a.extractLsb' 8 4 ++ a.extractLsb' 0 8) : BitVec (4 + (4 + 8))) := BitVec.append_assoc
    _ = encode (.jp a) := congrArg _ (BitVec.extractLsb'_append_extractLsb' (w := 4) (len := 8) (x := a))

/-- The low byte of a JP word is its target's. -/
theorem kkField_of_decode_jp {w : Word} {nnn : Addr12} (h : decode w = .jp nnn) : kkField w = nnn.extractLsb' 0 8 := by
  have hword : w = encode (.jp nnn) := by rw [← h, encode_decode]
  rw [hword]
  exact kkField_append _ _

/-- The lowest four bits of a DRW word are its height. -/
theorem n3Field_of_decode_drw {w : Word} {x y : Reg} {n : Nibble} (h : decode w = .drw x y n) : n3Field w = n := by
  have hword : w = encode (.drw x y n) := by rw [← h, encode_decode]
  rw [hword]
  exact (fields_of_xyn _ x y n).2.2

/-- A word that ends in the byte 0x00 cannot raise: its DRW has height 0. -/
theorem exec_out_of_low_zero {hi : Byte} {s t : State} (h : exec (decode (catBytes hi 0x00#8)) s = .next t) :
    t.out ≠ none := by
  obtain ⟨x, y, n, r, hdrw, hr, -⟩ | ⟨-, -, -, o, ho⟩ := exec_cases h
  · obtain ⟨q, -, hq, -⟩ := drawRows_error hr
    have hheight : n = 0x0#4 := by
      rw [← n3Field_of_decode_drw hdrw]
      exact (BitVec.extractLsb'_append_eq_of_add_le (by decide)).trans (by decide)
    rw [hheight] at hq
    exact absurd hq (Nat.not_lt_zero q)
  · rw [ho]; exact Option.some_ne_none o

/-- The tick at a JP to its own address (rule R134). -/
theorem step_self_jump {s : State} {a : Addr12} (ha : a.toNat ≤ 0xFFE) (hfaulted : s.faulted = none)
    (hpc : s.pc = zextAddr a) (hhi : s.byteAt a.toNat = 0x1#4 ++ a.extractLsb' 8 4)
    (hlo : s.byteAt (a.toNat + 1) = a.extractLsb' 0 8) :
    step s = .next { s with started := true, out := some ⟨false, none⟩ } := by
  have haddr : s.pc.toNat = a.toNat := by rw [hpc, zextAddr_toNat]
  have hfetch : fetch s = .ok (encode (.jp a)) := by
    rw [fetch_of_lt (by rw [haddr, memSize]; omega), haddr, hhi, hlo, catBytes_jp]
  rw [step_of_fetch hfaulted hfetch, decode_encode, exec_jp, setPc_beginTick_self hpc]

end Machine

open Machine

/-! ### Fetch and faults -/

/-- Settles O7: the word is the two bytes put together, and each half of it is its byte. -/
theorem fetchReadsBigEndian : Obligations.FetchReadsBigEndian :=
  fun _ h => ⟨_, fetch_of_lt h, catBytes_high _ _, catBytes_low _ _⟩

/-- Settles O8: under wrap no address is past the space. -/
theorem fetchWrapsModuloMemory : Obligations.FetchWrapsModuloMemory := by
  intro s hwrap
  exact fetch_of_inside fun hfault => by rw [hwrap] at hfault; cases hfault

/-- Settles O9: the fetch gives the word of the two bytes, and decoding them is decoding that word. -/
theorem stepRunsTheDecodedInstruction : Obligations.StepRunsTheDecodedInstruction := by
  intro s i hfaulted hinside hbytes _
  cases hbytes
  exact step_of_fetch hfaulted (fetch_of_inside hinside)

/-- Settles O10: the fetch raises for the first address past the space, and the tick ends there. -/
theorem fetchPastTheTopRaises : Obligations.FetchPastTheTopRaises :=
  fun _ hfaulted hfault hpast => step_of_fetch_error hfaulted (fetch_past_top hfault hpast)

/-- Settles O11: a tick looks at the mark before anything else. -/
theorem faultedCoreHasNoTick : Obligations.FaultedCoreHasNoTick := fun _ _ => step_faulted

/-- Settles O12: a tick that completes leaves the mark as it was, so a mark that is new was raised. -/
theorem raisedTickKeepsTheStateBefore : Obligations.RaisedTickKeepsTheStateBefore := by
  intro s t r hfaulted ht hmark
  obtain ⟨-, ⟨q, hpossible, rfl⟩ | ⟨w, -, -, hframe, -, -, -⟩⟩ := step_next_cases ht
  · cases hmark
    exact ⟨rfl, hpossible⟩
  · rw [hframe.faulted, hfaulted] at hmark
    cases hmark

/-- Settles O13: every tick answers a next state, and no reason to raise is possible. -/
theorem defaultsNeverRaise : Obligations.DefaultsNeverRaise := by
  intro s hfaulted haddr hrow
  obtain ⟨t, ht⟩ := step_total hfaulted
  obtain ⟨-, ⟨r, hpossible, -⟩ | ⟨w, -, -, hframe, -, -, hout⟩⟩ := step_next_cases ht
  · rw [not_faultPossible haddr hrow] at hpossible
    cases hpossible
  · exact ⟨t, _, ht, hframe.faulted.trans hfaulted, hout⟩

/-! ### Every step -/

/-- Settles O34: memory and parameters are as before, and so is every byte. -/
theorem noTickWritesMemoryTimersOrParameters : Obligations.NoTickWritesMemoryTimersOrParameters := by
  intro s t ht
  obtain ⟨hmem, hdt, hst, hcfg⟩ := step_keeps ht
  exact ⟨byteAt_congr hmem hcfg, hmem, hdt, hst, hcfg⟩

/-- Settles O38: `pc` stays, advances by 2, or takes the even target of a JP. -/
theorem evenPcIsKeptByEvenJumps : Obligations.EvenPcIsKeptByEvenJumps := by
  intro s t ht heven hjumps
  obtain ⟨-, ⟨r, -, rfl⟩ | ⟨w, hw, hexec⟩⟩ := step_cases ht
  · exact heven
  · obtain ⟨-, hpc⟩ | hpc | ⟨nnn, hi, hpc⟩ := exec_pc hexec
    · rw [hpc, heven]
    · rw [hpc]; bv_omega
    · rw [hpc, zextAddr_toNat, hjumps w nnn hw hi]

/-- Settles O39: the tick at a self-jump changes only its marks, so the state after it meets the same premises. -/
theorem selfJumpIsAFixedPoint : Obligations.SelfJumpIsAFixedPoint :=
  fun _ _ ha hfaulted hpc hhi hlo =>
    ⟨step_self_jump ha hfaulted hpc hhi hlo, step_self_jump ha hfaulted hpc hhi hlo⟩

/-- Settles O40: the word fetched at 0xFFF ends in the byte 0x00 of address 0x000, so it is no JP to 0xFFF, and a DRW of
it has height 0 and cannot raise. -/
theorem noSelfJumpAtTheTop : Obligations.NoSelfJumpAtTheTop := by
  intro s t hinv hfont hwrap hpc ht hstay
  have hzero : s.byteAt 0 = 0x00#8 := (read_below_rom hinv.romOnly (by decide)).trans (unlistedByte_below_font hfont)
  obtain ⟨-, ⟨r, hr, -⟩ | ⟨w, hw, hexec⟩⟩ := step_cases ht
  · have := ((fetch_raises_iff s).mp ⟨r, hr⟩).1
    rw [hwrap] at this; cases this
  have hfetch := fetchWrapsModuloMemory s hwrap
  rw [hw, hpc] at hfetch
  obtain rfl : w = catBytes (s.byteAt 0xFFF) 0x00#8 := by rw [← hzero]; exact Except.ok.inj hfetch
  obtain ⟨hout, -⟩ | hnext | ⟨nnn, hjp, hnext⟩ := exec_pc hexec
  · exact exec_out_of_low_zero hexec hout
  · rw [hnext, hpc] at hstay
    exact absurd hstay (by decide)
  · have htarget : nnn = 0xFFF#12 := by
      have hnat := congrArg BitVec.toNat (hnext.symm.trans hstay)
      rw [zextAddr_toNat] at hnat
      exact BitVec.eq_of_toNat_eq hnat
    have hlow : 0x00#8 = nnn.extractLsb' 0 8 := (catBytes_low _ _).symm.trans (kkField_of_decode_jp hjp)
    rw [htarget] at hlow
    exact absurd hlow (by decide)

/-- Settles O41: both bytes at `pc` read 0x00, and the word 0x0000 is a CLS. -/
theorem emptyRomTicksClear : Obligations.EmptyRomTicksClear := by
  intro s hmem hfaulted hrom htop
  have hzero : ∀ a, romStart ≤ a → s.byteAt a = 0x00#8 := fun a ha => by
    rw [State.byteAt, hmem]
    exact unlistedByte_above_font ((font_below_rom s.cfg).trans ha)
  have hfetch : fetch s = .ok 0x0000#16 := by
    rw [fetch_of_lt htop, hzero _ hrom, hzero _ (by omega)]; rfl
  obtain ⟨t, ht, hcells, hout, hregs, -, hpc, -⟩ := clsClearsAnyFramebuffer.2 0x000#12 s
  exact ⟨t, (step_of_fetch hfaulted hfetch).trans ht, hcells, hout, hpc, hregs⟩

/-- Settles O42: neither the mark nor the fetch nor any instruction depends on a timer. -/
theorem timersAreNeverRead : Obligations.TimersAreNeverRead := by
  intro s t d e ht
  have hfetch : fetch (s.setTimers d e) = fetch s := fetch_congr rfl (fun _ => rfl) rfl
  obtain ⟨hfaulted, ⟨r, hr, rfl⟩ | ⟨w, hw, hexec⟩⟩ := step_cases ht
  · exact step_of_fetch_error hfaulted (hfetch.trans hr)
  · exact (step_of_fetch (s := s.setTimers d e) hfaulted (hfetch.trans hw)).trans (exec_setTimers d e hexec)

/-- Settles O43: the tick writes both fields before anything could read them. -/
theorem bookkeepingIsNeverRead : Obligations.BookkeepingIsNeverRead := by
  refine ⟨fun s o => ?_, fun s t b ht hmark => ?_⟩
  · have hfetch : fetch (s.setOut o) = fetch s := fetch_congr rfl (fun _ => rfl) rfl
    simp only [step, tick, State.setOut_faulted, hfetch, exec_setOut]
    rfl
  · have hfetch : fetch (s.setStarted b) = fetch s := fetch_congr rfl (fun _ => rfl) rfl
    obtain ⟨hfaulted, ⟨r, -, rfl⟩ | ⟨w, hw, hexec, -, -, -, hout⟩⟩ := step_next_cases ht
    · cases hmark
    · exact (step_of_fetch (s := s.setStarted b) hfaulted (hfetch.trans hw)).trans
        (exec_setStarted b hexec (by rw [hout]; exact Option.some_ne_none _))

/-- Settles O31: an unknown word only reports, every instruction answers a next state, and one that raises is a DRW for
which a fault is possible. -/
theorem unknownWordsDegradeGracefully : Obligations.UnknownWordsDegradeGracefully := by
  refine ⟨fun w s hmem => ?_, fun w s hdefaults => ?_, fun w s => exec_total (decode w) s⟩
  · have hunknown : unknownFamily (decode w).family = true := by rw [decode_family]; exact decide_eq_true hmem
    obtain ⟨t, ht, hout, hregs, hI, hcells, hpc, -, hframe⟩ := exec_unknown_frame hunknown s
    exact ⟨t, _, ht, hout, hregs, hI, hcells, hpc, hframe⟩
  · obtain ⟨t, ht⟩ := exec_total (decode w) s
    obtain ⟨x, y, n, r, hdrw, hr, -⟩ | ⟨hframe, -, -, o, ho⟩ := exec_cases ht
    · have hfamily : opField w = 0xD#4 := by rw [← decode_family, hdrw]; rfl
      obtain ⟨haddr, hrow⟩ := hdefaults hfamily
      have hpossible := drawRows_error_possible hr
      rw [not_faultPossible haddr hrow] at hpossible
      cases hpossible
    · exact ⟨t, o, ht, ho, hframe.faulted⟩

end Sys2Proof
end

section
/-! Drawing a sprite (43_sprite_draw.md): when the row loop ends, raises or runs on, and the loop against the picture
said without it. -/

namespace Sys2Proof

namespace Machine

theorem originX_lt (s : State) (x : Reg) : originX s x < fbWidth := Nat.mod_lt _ (by decide)

theorem originY_lt (s : State) (y : Reg) : originY s y < fbHeight := Nat.mod_lt _ (by decide)

/-! ### The vertical rule -/

/-- Every drawn row is the row number modulo 32 (rule R166). -/
theorem rowRule_draw_eq_mod {mode : VerticalMode} {y row : Nat} (h : rowRule mode y = .draw row) :
    row = y % fbHeight := by
  obtain ⟨hlt, heq⟩ | ⟨-, ⟨-, heq⟩ | ⟨-, heq⟩ | ⟨-, heq⟩⟩ := rowRule_cases mode y
  · cases heq.symm.trans h; exact (Nat.mod_eq_of_lt hlt).symm
  · cases heq.symm.trans h
  · cases heq.symm.trans h; rfl
  · cases heq.symm.trans h

/-- The vertical rule by `rowDrawn`: the row is drawn, or it ends the loop under clip, or it raises under fault. -/
theorem rowRule_by_rowDrawn (s : State) (y0 r : Nat) :
    (rowDrawn s y0 r = true ∧ ∃ row, rowRule s.cfg.verticalMode (y0 + r) = .draw row) ∨
    (fbHeight ≤ y0 + r ∧ ((s.cfg.verticalMode = .clip ∧ rowRule s.cfg.verticalMode (y0 + r) = .stop) ∨
      (s.cfg.verticalMode = .fault ∧ rowRule s.cfg.verticalMode (y0 + r) = .overflow))) := by
  obtain ⟨hlt, heq⟩ | ⟨hge, ⟨hmode, heq⟩ | ⟨hmode, heq⟩ | ⟨hmode, heq⟩⟩ := rowRule_cases s.cfg.verticalMode (y0 + r)
  · exact .inl ⟨by simp [rowDrawn, hlt], _, heq⟩
  · exact .inr ⟨hge, .inl ⟨hmode, heq⟩⟩
  · exact .inl ⟨by simp [rowDrawn, hmode], _, heq⟩
  · exact .inr ⟨hge, .inr ⟨hmode, heq⟩⟩

theorem rowRule_of_rowDrawn {s : State} {y0 r : Nat} (h : rowDrawn s y0 r = true) :
    ∃ row, rowRule s.cfg.verticalMode (y0 + r) = .draw row := by
  obtain ⟨-, hrow⟩ | ⟨hge, ⟨hmode, -⟩ | ⟨hmode, -⟩⟩ := rowRule_by_rowDrawn s y0 r
  · exact hrow
  all_goals simp [rowDrawn, hmode, Nat.not_lt.mpr hge] at h

/-- The rows before a drawn row are drawn. -/
theorem rowDrawn_of_le {s : State} {y0 q r : Nat} (hqr : q ≤ r) (h : rowDrawn s y0 r = true) :
    rowDrawn s y0 q = true := by
  simp only [rowDrawn, Bool.or_eq_true, decide_eq_true_eq] at h ⊢
  exact h.imp_right (by omega)

/-! ### One row of the loop, and the rows that it runs past -/

section Loop

variable {s : State} {x0 y0 n r : Nat} {d : Draw}

/-- A drawn row that can be read: its byte is drawn and the loop goes on. -/
theorem drawRows_of_drawn {row : Nat} (hrow : rowRule s.cfg.verticalMode (y0 + r) = .draw row)
    (hread : s.cfg.addrOverflow = .fault → s.I.toNat + r < memSize) :
    drawRows s x0 y0 (n + 1) r d =
      drawRows s x0 y0 n (r + 1) (drawRow (s.byteAt ((s.I.toNat + r) % memSize)) row x0 d) := by
  have hok : ¬ (s.cfg.addrOverflow = .fault ∧ memSize ≤ s.I.toNat + r) :=
    fun h => absurd (hread h.1) (Nat.not_lt.mpr h.2)
  simp only [drawRows, hrow, memReadEff_eq, if_neg hok]

/-- A drawn row past the space raises. -/
theorem drawRows_of_unreadable {row : Nat} (hrow : rowRule s.cfg.verticalMode (y0 + r) = .draw row)
    (hfault : s.cfg.addrOverflow = .fault) (hpast : memSize ≤ s.I.toNat + r) :
    drawRows s x0 y0 (n + 1) r d = .error (.addressFault (s.I.toNat + r)) := by
  simp only [drawRows, hrow, memReadEff_eq, if_pos (And.intro hfault hpast)]

theorem drawRows_of_stop (hrow : rowRule s.cfg.verticalMode (y0 + r) = .stop) :
    drawRows s x0 y0 (n + 1) r d = .ok d := by
  simp only [drawRows, hrow]

theorem drawRows_of_overflow (hrow : rowRule s.cfg.verticalMode (y0 + r) = .overflow) :
    drawRows s x0 y0 (n + 1) r d = .error (.verticalOverflow (y0 + r)) := by
  simp only [drawRows, hrow]

/-- The loop runs past every row that is drawn and can be read. -/
theorem drawRows_past_drawn {m : Nat} (h : ∀ q, r ≤ q → q < r + m →
      rowDrawn s y0 q = true ∧ (s.cfg.addrOverflow = .fault → s.I.toNat + q < memSize)) :
    ∃ d', drawRows s x0 y0 (m + n) r d = drawRows s x0 y0 n (r + m) d' := by
  induction m generalizing r d with
  | zero => exact ⟨d, by rw [Nat.zero_add, Nat.add_zero]⟩
  | succ m ih =>
    obtain ⟨hdrawn, hread⟩ := h r (Nat.le_refl r) (by omega)
    obtain ⟨row, hrow⟩ := rowRule_of_rowDrawn hdrawn
    rw [Nat.add_right_comm m 1 n, drawRows_of_drawn hrow hread, ← Nat.add_assoc, Nat.add_right_comm r m 1]
    exact ih fun q hq hqm => h q (by omega) (by omega)

/-- The loop raises nothing where no row overflows the frame and every drawn row can be read (rules R162, R166). -/
theorem drawRows_runs (hrows : s.cfg.verticalMode = .fault → y0 + (r + n) ≤ fbHeight)
    (hread : s.cfg.addrOverflow = .fault → ∀ q, q < r + n → rowDrawn s y0 q = true → s.I.toNat + q < memSize) :
    ∃ d', drawRows s x0 y0 n r d = .ok d' := by
  induction n generalizing r d with
  | zero => exact ⟨d, rfl⟩
  | succ n ih =>
    obtain ⟨hdrawn, row, hrow⟩ | ⟨hge, ⟨-, hrow⟩ | ⟨hmode, -⟩⟩ := rowRule_by_rowDrawn s y0 r
    · rw [drawRows_of_drawn hrow fun hfault => hread hfault r (by omega) hdrawn]
      exact ih (fun hmode => by have := hrows hmode; omega) fun hfault q hq => hread hfault q (by omega)
    · exact ⟨d, drawRows_of_stop hrow⟩
    · have := hrows hmode
      omega

/-- What the first row of a loop that ends did: it clipped the rest, or it was drawn and the loop went on. -/
theorem drawRows_ok_cases {d' : Draw} (h : drawRows s x0 y0 (n + 1) r d = .ok d') :
    (s.cfg.verticalMode = .clip ∧ fbHeight ≤ y0 + r ∧ d' = d) ∨
    ∃ row, rowRule s.cfg.verticalMode (y0 + r) = .draw row ∧
      drawRows s x0 y0 n (r + 1) (drawRow (s.byteAt ((s.I.toNat + r) % memSize)) row x0 d) = .ok d' := by
  obtain ⟨-, row, hrow⟩ | ⟨hge, ⟨hmode, hrow⟩ | ⟨-, hrow⟩⟩ := rowRule_by_rowDrawn s y0 r
  · by_cases hpast : s.cfg.addrOverflow = .fault ∧ memSize ≤ s.I.toNat + r
    · rw [drawRows_of_unreadable hrow hpast.1 hpast.2] at h; cases h
    · rw [drawRows_of_drawn hrow fun hfault => Nat.lt_of_not_le fun hle => hpast ⟨hfault, hle⟩] at h
      exact .inr ⟨row, hrow, h⟩
  · rw [drawRows_of_stop hrow] at h; cases h
    exact .inl ⟨hmode, hge, rfl⟩
  · rw [drawRows_of_overflow hrow] at h; cases h

end Loop

/-! ### The picture of a part of the rows -/

/-- The bit that row offset `r` of the sprite, drawn at framebuffer row `fbRow`, XORs into cell (`col`, `row`). -/
def rowPixel (s : State) (x0 r fbRow row col : Nat) : Bool :=
  decide (row = fbRow ∧ x0 ≤ col ∧ col < x0 + 8) && spriteBit (s.byteAt ((s.I.toNat + r) % memSize)) (col - x0)

/-- The bit that the row offsets from `r` on, `n` of them, XOR into cell (`col`, `row`): `spritePixel`, but for part of
the sprite's rows. -/
def rowsPixel (s : State) (x0 y0 r n row col : Nat) : Bool :=
  decide (r ≤ spriteRowAt y0 row ∧ spriteRowAt y0 row < r + n) &&
    (decide (s.cfg.verticalMode = .wrap ∨ y0 ≤ row) && rowPixel s x0 (spriteRowAt y0 row) row row col)

theorem spritePixel_eq_rowsPixel (s : State) (x y : Reg) (h : Nibble) (row col : Nat) :
    spritePixel s x y h row col = rowsPixel s (originX s x) (originY s y) 0 h.toNat row col := by
  simp [spritePixel, rowCovered, rowsPixel, rowPixel, Bool.and_assoc]

/-- Row offset `r` is the one that falls on the row it is drawn at, and on no other row of the frame. -/
theorem eq_drawn_row_iff {mode : VerticalMode} {y0 r row fbRow : Nat} (hy : y0 < fbHeight) (hr : r < fbHeight)
    (hrow : row < fbHeight) (hdraw : rowRule mode (y0 + r) = .draw fbRow) :
    row = fbRow ↔ spriteRowAt y0 row = r ∧ (mode = .wrap ∨ y0 ≤ row) := by
  simp only [fbHeight] at hy hr hrow
  obtain ⟨hlt, heq⟩ | ⟨hge, ⟨-, heq⟩ | ⟨hmode, heq⟩ | ⟨-, heq⟩⟩ := rowRule_cases mode (y0 + r)
  · cases heq.symm.trans hdraw
    simp only [spriteRowAt, fbHeight] at *
    omega
  · cases heq.symm.trans hdraw
  · cases heq.symm.trans hdraw
    simp only [spriteRowAt, fbHeight, hmode, true_or, and_true] at *
    omega
  · cases heq.symm.trans hdraw

theorem rowsPixel_of_no_row (s : State) (x0 y0 r row col : Nat) : rowsPixel s x0 y0 r 0 row col = false := by
  rw [rowsPixel, decide_eq_false (by omega), Bool.false_and]

/-- Where clip ends the loop, no later row falls inside the frame. -/
theorem rowsPixel_of_clipped {s : State} {y0 r row : Nat} (x0 n col : Nat) (hclip : s.cfg.verticalMode = .clip)
    (hge : fbHeight ≤ y0 + r) (hrow : row < fbHeight) : rowsPixel s x0 y0 r n row col = false := by
  have hnone : ¬ ((r ≤ spriteRowAt y0 row ∧ spriteRowAt y0 row < r + n) ∧ y0 ≤ row) := by
    simp only [spriteRowAt, fbHeight] at *
    omega
  by_cases hy : y0 ≤ row
  · rw [rowsPixel, decide_eq_false fun h => hnone ⟨h, hy⟩, Bool.false_and]
  · simp [rowsPixel, hclip, hy]

section Rows

variable {s : State} {x0 y0 n r fbRow row col : Nat} (hy : y0 < fbHeight) (hr : r < fbHeight) (hrow : row < fbHeight)
  (hdraw : rowRule s.cfg.verticalMode (y0 + r) = .draw fbRow)

include hy hr hrow hdraw

/-- On its own row the first row offset is the one that falls there, so no later row draws over it. -/
theorem rowsPixel_succ_of_own_row (h : row = fbRow) : rowsPixel s x0 y0 (r + 1) n row col = false := by
  have hoffset : spriteRowAt y0 row = r := ((eq_drawn_row_iff hy hr hrow hdraw).mp h).1
  rw [rowsPixel, decide_eq_false (by omega), Bool.false_and]

theorem rowsPixel_succ_of_rowPixel (h : rowPixel s x0 r fbRow row col = true) :
    rowsPixel s x0 y0 (r + 1) n row col = false :=
  rowsPixel_succ_of_own_row hy hr hrow hdraw (of_decide_eq_true (Bool.and_eq_true_iff.mp h).1).1

/-- The picture of the rows is the first row's with that of the rows after it. -/
theorem rowsPixel_succ :
    rowsPixel s x0 y0 r (n + 1) row col = (rowPixel s x0 r fbRow row col || rowsPixel s x0 y0 (r + 1) n row col) := by
  have hiff := eq_drawn_row_iff hy hr hrow hdraw
  by_cases hat : row = fbRow
  · obtain ⟨hoffset, hcovered⟩ := hiff.mp hat
    rw [rowsPixel_succ_of_own_row hy hr hrow hdraw hat, rowsPixel, hoffset, decide_eq_true (by omega),
      decide_eq_true hcovered, hat, Bool.or_false, Bool.true_and, Bool.true_and]
  · have hfirst : rowPixel s x0 r fbRow row col = false := by simp [rowPixel, hat]
    rw [hfirst, Bool.false_or, rowsPixel, rowsPixel]
    by_cases hcovered : s.cfg.verticalMode = .wrap ∨ y0 ≤ row
    · have hoffset : spriteRowAt y0 row ≠ r := fun h => hat (hiff.mpr ⟨h, hcovered⟩)
      congr 2
      exact propext (by omega)
    · rw [decide_eq_false hcovered, Bool.false_and, Bool.and_false, Bool.and_false]

end Rows

/-! ### The loop draws the picture -/

theorem drawRow_get_rowPixel (s : State) {d : Draw} {x0 r fbRow row col : Nat} (hfb : fbRow < fbHeight)
    (hcol : col < fbWidth) :
    (drawRow (s.byteAt ((s.I.toNat + r) % memSize)) fbRow x0 d).fb.get (cellIndex row col) =
      (d.fb.get (cellIndex row col) ^^ rowPixel s x0 r fbRow row col) :=
  drawRow_get _ hfb x0 d hcol

theorem drawRow_hit_rowPixel (s : State) {d : Draw} {x0 r fbRow : Nat} (hfb : fbRow < fbHeight) :
    (drawRow (s.byteAt ((s.I.toNat + r) % memSize)) fbRow x0 d).hit = true ↔
      d.hit = true ∨ ∃ row col, row < fbHeight ∧ col < fbWidth ∧ d.fb.get (cellIndex row col) = true ∧
        rowPixel s x0 r fbRow row col = true := by
  rw [drawRow_hit _ hfb]
  refine or_congr_right ⟨?_, ?_⟩
  · rintro ⟨col, hcol, hcols, hset, hbit⟩
    exact ⟨fbRow, col, hfb, hcol, hset, by simp [rowPixel, hcols, hbit]⟩
  · rintro ⟨row, col, -, hcol, hset, hpixel⟩
    obtain ⟨hplace, hbit⟩ := Bool.and_eq_true_iff.mp hpixel
    obtain ⟨rfl, hcols⟩ := of_decide_eq_true hplace
    exact ⟨col, hcol, hcols, hset, hbit⟩

/-- The cells of a loop that ends: each is XORed with its bit of the rows' picture. -/
theorem drawRows_get {s : State} {x0 y0 n r : Nat} {d d' : Draw} (hy : y0 < fbHeight) (hn : r + n ≤ fbHeight)
    (h : drawRows s x0 y0 n r d = .ok d') {row col : Nat} (hrow : row < fbHeight) (hcol : col < fbWidth) :
    d'.fb.get (cellIndex row col) = (d.fb.get (cellIndex row col) ^^ rowsPixel s x0 y0 r n row col) := by
  induction n generalizing r d with
  | zero => cases h; rw [rowsPixel_of_no_row, Bool.xor_false]
  | succ n ih =>
    obtain ⟨hclip, hge, rfl⟩ | ⟨fbRow, hdraw, hrest⟩ := drawRows_ok_cases h
    · rw [rowsPixel_of_clipped _ _ _ hclip hge hrow, Bool.xor_false]
    · have hr : r < fbHeight := by omega
      rw [ih (by omega) hrest, drawRow_get_rowPixel s (rowRule_draw_lt hdraw) hcol, rowsPixel_succ hy hr hrow hdraw]
      cases hfirst : rowPixel s x0 r fbRow row col with
      | false => simp
      | true => simp [rowsPixel_succ_of_rowPixel hy hr hrow hdraw hfirst]

/-- The collision flag of a loop that ends: some bit of value 1 of the rows' picture falls on a cell that held 1 before
the loop, for no cell is drawn by two rows. -/
theorem drawRows_hit {s : State} {x0 y0 n r : Nat} {d d' : Draw} (hy : y0 < fbHeight) (hn : r + n ≤ fbHeight)
    (h : drawRows s x0 y0 n r d = .ok d') :
    d'.hit = true ↔ d.hit = true ∨ ∃ row col, row < fbHeight ∧ col < fbWidth ∧ d.fb.get (cellIndex row col) = true ∧
      rowsPixel s x0 y0 r n row col = true := by
  induction n generalizing r d with
  | zero => cases h; simp [rowsPixel_of_no_row]
  | succ n ih =>
    obtain ⟨hclip, hge, rfl⟩ | ⟨fbRow, hdraw, hrest⟩ := drawRows_ok_cases h
    · refine (or_iff_left ?_).symm
      rintro ⟨row, col, hrow, -, -, hpixel⟩
      rw [rowsPixel_of_clipped _ _ _ hclip hge hrow] at hpixel
      cases hpixel
    · have hr : r < fbHeight := by omega
      have hfb := rowRule_draw_lt hdraw
      rw [ih (by omega) hrest, drawRow_hit_rowPixel s hfb, or_assoc]
      refine or_congr_right ⟨?_, ?_⟩
      · rintro (⟨row, col, hrow, hcol, hset, hpixel⟩ | ⟨row, col, hrow, hcol, hset, hpixel⟩)
        · exact ⟨row, col, hrow, hcol, hset, by rw [rowsPixel_succ hy hr hrow hdraw, hpixel, Bool.true_or]⟩
        · refine ⟨row, col, hrow, hcol, ?_, by rw [rowsPixel_succ hy hr hrow hdraw, hpixel, Bool.or_true]⟩
          have hfirst : rowPixel s x0 r fbRow row col = false := by
            by_contra hfirst
            rw [rowsPixel_succ_of_rowPixel hy hr hrow hdraw (Bool.eq_true_of_not_eq_false hfirst)] at hpixel
            cases hpixel
          rwa [drawRow_get_rowPixel s hfb hcol, hfirst, Bool.xor_false] at hset
      · rintro ⟨row, col, hrow, hcol, hset, hpixel⟩
        rw [rowsPixel_succ hy hr hrow hdraw] at hpixel
        cases hfirst : rowPixel s x0 r fbRow row col with
        | true => exact .inl ⟨row, col, hrow, hcol, hset, hfirst⟩
        | false =>
          refine .inr ⟨row, col, hrow, hcol, ?_, by rwa [hfirst, Bool.false_or] at hpixel⟩
          rw [drawRow_get_rowPixel s hfb hcol, hfirst, Bool.xor_false, hset]

/-- A DRW that raises nothing, by its row loop: cells and flag are the sprite's picture against the frame before. -/
theorem exec_drw_runs {x y : Reg} {h : Nibble} {s : State} (hruns : DrwRuns s y h) :
    ∃ d : Draw, exec (.drw x y h) s = .next (markChanged (writeCollision ((beginTick s).setFb d.fb) d.hit)) ∧
      (∀ row col, row < fbHeight → col < fbWidth →
        d.fb.get (cellIndex row col) = (s.cell row col ^^ spritePixel s x y h row col)) ∧
      (d.hit = true ↔ Collides s x y h) := by
  obtain ⟨hrows, hread⟩ := hruns
  have hy := originY_lt s y
  have hn : 0 + h.toNat ≤ fbHeight := by have := h.isLt; simp only [fbHeight]; omega
  obtain ⟨d, hd⟩ := drawRows_runs (x0 := originX s x) (y0 := originY s y) (n := h.toNat) (r := 0) (d := ⟨s.fb, false⟩)
    (by rwa [Nat.zero_add]) (by rwa [Nat.zero_add])
  refine ⟨d, exec_drw_of_ok hd, fun row col hrow hcol => ?_, ?_⟩
  · rw [drawRows_get hy hn hd hrow hcol, ← spritePixel_eq_rowsPixel]; rfl
  · rw [drawRows_hit hy hn hd]
    simp [Collides, State.cell, spritePixel_eq_rowsPixel]

/-! ### The picture and the premises of a second draw -/

/-- A draw depends on its origins, `I`, the bytes of memory and the parameters alone. -/
structure SameSprite (x y : Reg) (s u : State) : Prop where
  x : readReg u x = readReg s x
  y : readReg u y = readReg s y
  I : u.I = s.I
  bytes : ∀ a, u.byteAt a = s.byteAt a
  cfg : u.cfg = s.cfg

theorem SameSprite.spritePixel_eq {x y : Reg} {s u : State} (hsame : SameSprite x y s u) (h : Nibble) (row col : Nat) :
    spritePixel u x y h row col = spritePixel s x y h row col := by
  unfold spritePixel rowCovered originX originY
  rw [hsame.x, hsame.y, hsame.I, hsame.bytes, hsame.cfg]

theorem SameSprite.drwRuns {x y : Reg} {s u : State} (hsame : SameSprite x y s u) {h : Nibble} (hruns : DrwRuns s y h) :
    DrwRuns u y h := by
  unfold DrwRuns rowDrawn originY at *
  rwa [hsame.y, hsame.I, hsame.cfg]

theorem spritePixel_of_height_zero (s : State) (x y : Reg) (row col : Nat) : spritePixel s x y 0#4 row col = false := by
  simp [spritePixel, rowCovered]

end Machine

open Machine

/-- Settles O23: the row loop draws the picture and finds the collision, and the flag write comes after every cell. -/
theorem drwXorsThePicture : Obligations.DrwXorsThePicture := by
  intro x y h s hruns
  obtain ⟨d, ht, hcells, hhit⟩ := exec_drw_runs (x := x) hruns
  have hflag : ∀ j, readReg (markChanged (writeCollision ((beginTick s).setFb d.fb) d.hit)) j =
      if s.cfg.vfCollision = true ∧ flagReg = j then flagByte d.hit else readReg s j :=
    fun j => readReg_writeCollision ((beginTick s).setFb d.fb) d.hit j
  obtain ⟨-, -, -, r, -, -, hraised⟩ | ⟨hframe, -, hstarted, -⟩ := exec_cases ht
  · have hout := congrArg State.out hraised
    rw [raised_out, markChanged_out] at hout; cases hout
  refine ⟨_, ht, fun row col hrow hcol => ?_, fun hvf hcollides => ?_, fun hvf hcollides => ?_, fun j hj => ?_,
    markChanged_out _, ?_, ?_, hstarted, hframe⟩
  · rw [← hcells row col hrow hcol, State.cell, markChanged_fb, writeCollision_fb, State.setFb_fb]
  · rw [hflag, if_pos ⟨hvf, rfl⟩, hhit.mpr hcollides]; rfl
  · rw [hflag, if_pos ⟨hvf, rfl⟩, Bool.eq_false_of_not_eq_true (mt hhit.mp hcollides)]; rfl
  · rw [hflag, if_neg fun hcond => hj hcond.1 hcond.2.symm]
  · simp
  · simp

/-- Settles O24: the loop runs past the rows inside the frame and raises at row 32. -/
theorem drwPastTheBottomRaises : Obligations.DrwPastTheBottomRaises := by
  intro x y h s hmode hpast hread
  obtain ⟨m, hm⟩ : ∃ m, originY s y + m = fbHeight := ⟨_, Nat.add_sub_of_le (originY_lt s y).le⟩
  obtain ⟨n, hn⟩ : ∃ n, h.toNat = m + (n + 1) := ⟨h.toNat - m - 1, by omega⟩
  have hdrawn : ∀ q, 0 ≤ q → q < 0 + m →
      rowDrawn s (originY s y) q = true ∧ (s.cfg.addrOverflow = .fault → s.I.toNat + q < memSize) := by
    intro q _ hq
    have hinside : originY s y + q < fbHeight := by omega
    exact ⟨by simp [rowDrawn, hinside], fun hfault => hread hfault q hinside⟩
  obtain ⟨d, hd⟩ := drawRows_past_drawn (x0 := originX s x) (n := n + 1) (d := ⟨s.fb, false⟩) hdrawn
  have hrule : rowRule s.cfg.verticalMode (originY s y + (0 + m)) = .overflow := by
    rw [Nat.zero_add, hm, hmode]; rfl
  rw [drawRows_of_overflow hrule, Nat.zero_add, hm, ← hn] at hd
  exact exec_drw_of_error hd

/-- Settles O25: the loop runs past the rows inside the space and raises at the first one past it. -/
theorem drwPastTheSpaceRaises : Obligations.DrwPastTheSpaceRaises := by
  intro x y h s r hfault hr hdrawn hbefore hpast
  obtain ⟨n, hn⟩ : ∃ n, h.toNat = r + (n + 1) := ⟨h.toNat - r - 1, by omega⟩
  obtain ⟨d, hd⟩ := drawRows_past_drawn (s := s) (x0 := originX s x) (y0 := originY s y) (r := 0) (m := r) (n := n + 1)
    (d := ⟨s.fb, false⟩) fun q _ hq => ⟨rowDrawn_of_le (by omega) hdrawn, fun _ => hbefore q (by omega)⟩
  obtain ⟨row, hrow⟩ := rowRule_of_rowDrawn hdrawn
  rw [Nat.zero_add, drawRows_of_unreadable hrow hfault hpast, ← hn] at hd
  exact exec_drw_of_error hd

/-- Settles O26: the picture of no row is empty, so nothing is drawn and nothing collides. -/
theorem drwOfHeightZero : Obligations.DrwOfHeightZero := by
  intro x y s
  have hruns : DrwRuns s y 0#4 := ⟨fun _ => (originY_lt s y).le, fun _ r hr => absurd hr (Nat.not_lt_zero r)⟩
  obtain ⟨t, ht, hcells, -, hclear, hregs, hout, -⟩ := drwXorsThePicture x y 0#4 s hruns
  refine ⟨t, ht, fun row col hrow hcol => ?_, hout, fun hvf => hclear hvf ?_, hregs⟩
  · rw [hcells row col hrow hcol, spritePixel_of_height_zero, Bool.xor_false]
  · rintro ⟨row, col, -, -, -, hpixel⟩
    rw [spritePixel_of_height_zero] at hpixel; cases hpixel

/-- Settles O28: the second draw has the same picture, and XORing a picture twice restores every cell. It collides where
the first draw set a cell that held 0. -/
theorem drawingTwiceRestoresTheFramebuffer : Obligations.DrawingTwiceRestoresTheFramebuffer := by
  intro x y h s t u hne hruns ht hfb hI hx hy hbytes hcfg
  obtain ⟨t', ht', hcells, -, -, hregs, -, htI, -, -, hframe⟩ := drwXorsThePicture x y h s hruns
  obtain rfl : t' = t := Host.Outcome.next.inj (ht'.symm.trans ht)
  have hsame : SameSprite x y s u :=
    ⟨hx.trans (hregs x fun hvf => (hne hvf).1), hy.trans (hregs y fun hvf => (hne hvf).2), hI.trans htI,
      fun a => (hbytes a).trans (hframe.bytes a), hcfg.trans hframe.cfg⟩
  have hcellsU : ∀ row col, row < fbHeight → col < fbWidth →
      u.cell row col = (s.cell row col ^^ spritePixel s x y h row col) := fun row col hrow hcol => by
    rw [State.cell, hfb, ← hcells row col hrow hcol, State.cell]
  have hcollides : Collides u x y h ↔ ∃ row col, row < fbHeight ∧ col < fbWidth ∧ s.cell row col = false ∧
      spritePixel s x y h row col = true := by
    refine exists₂_congr fun row col => and_congr_right fun hrow => and_congr_right fun hcol => ?_
    rw [hcellsU row col hrow hcol, hsame.spritePixel_eq]
    refine and_congr_left fun hpixel => ?_
    rw [hpixel, Bool.xor_true, Bool.not_eq_true']
  obtain ⟨v, hv, hcellsV, hset, hclear, -, hout, -⟩ := drwXorsThePicture x y h u (hsame.drwRuns hruns)
  refine ⟨v, hv, framebuffer_ext fun row col hrow hcol => ?_, hout, fun hvf => ?_⟩
  · have hcell := hcellsV row col hrow hcol
    rwa [hcellsU row col hrow hcol, hsame.spritePixel_eq, Bool.xor_assoc, Bool.xor_self, Bool.xor_false] at hcell
  · have hvfU : u.cfg.vfCollision = true := by rw [hsame.cfg, hvf]
    by_cases hc : Collides u x y h
    · exact ⟨iff_of_true (hset hvfU hc) (hcollides.mp hc), .inl (hset hvfU hc)⟩
    · have hzero := hclear hvfU hc
      exact ⟨iff_of_false (by rw [hzero]; decide) (mt hcollides.mpr hc), .inr hzero⟩

/-- Settles O29: the cell gives the row and the column, and fewer than 32 row numbers are distinct modulo 32. -/
theorem drawnCellsAreDistinct : Obligations.DrawnCellsAreDistinct := by
  intro mode x0 y0 r r' c c' row row' hy hr hr' hc hc' hrow hrow' hcell
  obtain ⟨hrows, hcols⟩ := (cellIndex_inj hc hc').mp hcell
  rw [rowRule_draw_eq_mod hrow, rowRule_draw_eq_mod hrow'] at hrows
  simp only [fbHeight] at hrows hy
  omega

end Sys2Proof
end

section
/-! The invariant of the CORE under the tick, and the host's actions and runs (70_reset_and_hazards.md). -/

namespace Sys2Proof

namespace Machine

/-! ### The invariant under a tick -/

theorem startupIndex_lt : startupIndex.toNat < memSize := by decide

theorem construct_inv (p : Params) : (State.construct p).Inv where
  memWf := rfl
  romOnly _ he := by cases he
  indexIn := startupIndex_lt
  timersStill _ := ⟨rfl, rfl⟩
  faultExplained _ hr := by cases hr
  faultSilent hr := absurd rfl hr
  diagUnknown _ _ ho := by cases ho

/-- A diagnostic of a tick names its instruction's own word, of an unknown family, and no such instruction draws. -/
theorem tickOutput_diag {i : Instr} {s : State} {d : Diag} (h : (tickOutput i s).diag = some d) :
    unknownFamily (opField d.word) = true ∧ (tickOutput i s).changed = false := by
  by_cases hunknown : unknownFamily i.family = true
  · obtain rfl : ⟨encode i, fetchAddr s⟩ = d := by simpa [tickOutput, hunknown] using h
    refine ⟨by rwa [show opField (encode i) = i.family from opField_append _ _], ?_⟩
    cases i
    case cls | drw => exact absurd hunknown Bool.false_ne_true
    all_goals rfl
  · simp [tickOutput, hunknown] at h

theorem exec_index_in {i : Instr} {s t : State} (h : exec i s = .next t) (hs : s.I.toNat < memSize) :
    t.I.toNat < memSize := by
  obtain hI | ⟨nnn, -, hI⟩ := exec_I h
  · rwa [hI]
  · rw [hI, zextAddr_toNat]; exact nnn.isLt

theorem step_inv {s t : State} (hinv : s.Inv) (ht : step s = .next t) : t.Inv := by
  obtain ⟨hmem, hdt, hst, hcfg⟩ := step_keeps ht
  have hmemWf : Memory.wf t.cfg t.mem = true := by rw [hmem, hcfg]; exact hinv.memWf
  have hromOnly : ∀ e ∈ t.mem, romStart ≤ e.1 := by rw [hmem]; exact hinv.romOnly
  have htimers : t.cfg.timerDecrement = false → t.dt = startupTimer ∧ t.st = startupTimer := by
    rw [hcfg, hdt, hst]; exact hinv.timersStill
  obtain ⟨hfaulted, ⟨r, hpossible, rfl⟩ | ⟨w, -, hexec, hframe, -, -, hout⟩⟩ := step_next_cases ht
  · exact
      { memWf := hmemWf, romOnly := hromOnly, indexIn := hinv.indexIn, timersStill := htimers
        faultExplained := fun _ hq => by cases hq; exact hpossible
        faultSilent := fun _ => raised_out s r
        diagUnknown := fun _ _ ho => by cases ho }
  · have hmark : t.faulted = none := hframe.faulted.trans hfaulted
    exact
      { memWf := hmemWf, romOnly := hromOnly, indexIn := exec_index_in hexec hinv.indexIn, timersStill := htimers
        faultExplained := fun _ hq => by rw [hmark] at hq; cases hq
        faultSilent := fun hq => absurd hmark hq
        diagUnknown := fun _ _ ho hd => by rw [hout] at ho; cases ho; exact tickOutput_diag hd }

/-! ### What each host action can do -/

theorem hostLoad_of_faulted {s : State} {r : FaultReason} (h : s.faulted = some r) (data : List Byte) :
    hostLoad data s = .refused .loadWhileFaulted := by
  simp only [hostLoad, h]

theorem hostLoad_of_started {s : State} (hfaulted : s.faulted = none) (hstarted : s.started = true) (data : List Byte) :
    hostLoad data s = .refused .loadAfterStart := by
  simp only [hostLoad, hfaulted, if_pos hstarted]

theorem hostLoad_of_fits {s : State} {data : List Byte} (hfaulted : s.faulted = none) (hstarted : s.started = false)
    (hfits : data.length ≤ romMax) :
    hostLoad data s = .next (s.setMem (Memory.writeBytes s.cfg s.mem romStart data), .loadOk) := by
  simp [hostLoad, hfaulted, hstarted, romFits, hfits]

/-- A Load that has a meaning copies its bytes or, rejected, changes nothing (rules R70, R72). -/
theorem hostLoad_next_cases {data : List Byte} {s t : State} {r : Response} (h : hostLoad data s = .next (t, r)) :
    s.faulted = none ∧
      ((data.length ≤ romMax ∧ t = s.setMem (Memory.writeBytes s.cfg s.mem romStart data)) ∨ t = s) := by
  cases hfaulted : s.faulted with
  | some q => rw [hostLoad_of_faulted hfaulted] at h; cases h
  | none =>
    refine ⟨rfl, ?_⟩
    cases hstarted : s.started with
    | true => rw [hostLoad_of_started hfaulted hstarted] at h; cases h
    | false =>
      by_cases hfits : data.length ≤ romMax
      · rw [hostLoad_of_fits hfaulted hstarted hfits] at h; cases h
        exact .inl ⟨hfits, rfl⟩
      · rw [hostLoad_eq_romTooLarge_iff.mpr ⟨hfaulted, hstarted, Nat.lt_of_not_le hfits, rfl⟩] at h; cases h
        exact .inr rfl

theorem hostTick_step {s t : State} {r : Response} (h : hostTick s = .next (t, r)) : step s = .next t := by
  unfold hostTick at h
  split at h
  next u hu => cases h; exact hu
  all_goals cases h

theorem hostTick_of_step {s t : State} (h : step s = .next t) : hostTick s = .next (t, tickResponse t) := by
  simp only [hostTick, h]

theorem hostTimerTick_next {s t : State} {r : Response} (h : hostTimerTick s = .next (t, r)) :
    s.cfg.timerDecrement = true ∧ t = s.setTimers (countDown s.dt) (countDown s.st) := by
  unfold hostTimerTick at h
  split at h
  next htimers => cases h; exact ⟨htimers, rfl⟩
  next => cases h

/-- Everything a host action can do to a CORE (rule R234): construct it anew, load it, reset it, tick it, count its
timers down, or leave it as it is. -/
theorem hostStep_cases {a : HostAction} {s t : State} {r : Response} (h : hostStep a s = .next (t, r)) :
    (∃ p, a = .construct p ∧ t = State.construct p) ∨
    (∃ data : List Byte, s.faulted = none ∧ data.length ≤ romMax ∧
      t = s.setMem (Memory.writeBytes s.cfg s.mem romStart data)) ∨
    t = hostReset s ∨ (a = .tick ∧ step s = .next t) ∨
    (s.cfg.timerDecrement = true ∧ t = s.setTimers (countDown s.dt) (countDown s.st)) ∨ t = s := by
  cases a with
  | construct p => cases h; exact .inl ⟨p, rfl, rfl⟩
  | load data =>
    obtain ⟨hfaulted, ⟨hfits, ht⟩ | ht⟩ := hostLoad_next_cases h
    · exact .inr (.inl ⟨data, hfaulted, hfits, ht⟩)
    · exact .inr (.inr (.inr (.inr (.inr ht))))
  | reset => cases h; exact .inr (.inr (.inl rfl))
  | tick => exact .inr (.inr (.inr (.inl ⟨rfl, hostTick_step h⟩)))
  | readFramebuffer => cases h; exact .inr (.inr (.inr (.inr (.inr rfl))))
  | timerTick => exact .inr (.inr (.inr (.inr (.inl (hostTimerTick_next h)))))

/-! ### The invariant under a host action -/

theorem load_inv {s : State} (hinv : s.Inv) {data : List Byte} (hfits : data.length ≤ romMax) :
    (s.setMem (Memory.writeBytes s.cfg s.mem romStart data)).Inv :=
  { hinv with
    memWf := wf_writeBytes data hinv.memWf (Nat.add_le_add_left hfits romStart)
    romOnly := fun e he => (mem_writeBytes data he).elim (hinv.romOnly e) id }

theorem hostReset_inv {s : State} (hinv : s.Inv) : (hostReset s).Inv :=
  { hinv with
    indexIn := startupIndex_lt
    timersStill := fun _ => ⟨rfl, rfl⟩ }

theorem setTimers_inv {s : State} (hinv : s.Inv) (htimers : s.cfg.timerDecrement = true) (d e : Byte) :
    (s.setTimers d e).Inv :=
  { hinv with timersStill := fun hstill => by cases htimers.symm.trans hstill }

theorem hostStep_inv {a : HostAction} {s t : State} {r : Response} (hinv : s.Inv) (h : hostStep a s = .next (t, r)) :
    t.Inv := by
  obtain ⟨p, -, rfl⟩ | ⟨data, -, hfits, rfl⟩ | rfl | ⟨-, ht⟩ | ⟨htimers, rfl⟩ | rfl := hostStep_cases h
  · exact construct_inv p
  · exact load_inv hinv hfits
  · exact hostReset_inv hinv
  · exact step_inv hinv ht
  · exact setTimers_inv hinv htimers _ _
  · exact hinv

/-! ### Parameters and runs -/

/-- Only Construct writes the parameters (rules R42, R230). -/
theorem hostStep_cfg {a : HostAction} {s t : State} {r : Response} (ha : ∀ p, a ≠ .construct p)
    (h : hostStep a s = .next (t, r)) : t.cfg = s.cfg := by
  obtain ⟨p, hp, -⟩ | ⟨data, -, -, rfl⟩ | rfl | ⟨-, ht⟩ | ⟨-, rfl⟩ | rfl := hostStep_cases h
  · exact absurd hp (ha p)
  case inr.inr.inr.inl => exact (step_keeps ht).2.2.2
  all_goals rfl

/-- What every action of a run keeps, the run keeps (rule R236). -/
theorem runActions_keeps {P : State → Prop} {actions : List HostAction}
    (hstep : ∀ a ∈ actions, ∀ s t r, P s → hostStep a s = .next (t, r) → P t) {rejected : Bool} {s t : State} (hs : P s)
    (h : runActions rejected actions s = .next t) : P t := by
  induction actions generalizing rejected s with
  | nil => cases h; exact hs
  | cons a rest ih =>
    unfold runActions at h
    split at h
    · cases h
    · split at h
      next u r hu =>
        have hu' : P u := hstep a List.mem_cons_self s u r hs hu
        exact ih (fun b hb => hstep b (List.mem_cons_of_mem a hb)) hu' h
      all_goals cases h

theorem undutifulTick_of_ne_tick {a : HostAction} (h : a ≠ .tick) (rejected : Bool) :
    undutifulTick rejected a = false := by
  simp [undutifulTick, h]

/-- A run goes on from the state after its first action, when that action is dutiful and has a meaning. -/
theorem runActions_of_next {rejected : Bool} {a : HostAction} {s t : State} {r : Response}
    (hduty : undutifulTick rejected a = false) (h : hostStep a s = .next (t, r)) (rest : List HostAction) :
    runActions rejected (a :: rest) s = runActions (rejectedAfter rejected a r) rest t := by
  simp [runActions, hduty, h]

/-! ### Startup values and counting down -/

theorem readReg_of_startup {s : State} (h : s.x = Vector.replicate 16 startupReg) (j : Reg) : readReg s j = 0x00#8 := by
  simp [readReg, h, startupReg]

theorem unlistedByte_font (p : Params) {j : Nat} (h : j < fontSize) :
    unlistedByte p (p.fontBase.val + j) = (p.font[j]?).getD 0x00#8 := by
  rw [unlistedByte, if_pos ⟨Nat.le_add_right _ _, Nat.add_lt_add_left h _⟩, Nat.add_sub_cancel_left]

/-- Truncated subtraction is 'down to zero, never below' (rule R240). -/
theorem countDown_toNat (t : Byte) : (countDown t).toNat = t.toNat - 1 := by
  unfold countDown
  split <;> bv_omega

end Machine

open Machine

/-! ### Invariants -/

/-- Settles O14: a tick that raises keeps the state before it, marked for a possible reason; one that completes has the
quiet frame, a 12-bit `I` where it writes it, and its instruction's outputs. -/
theorem everyTickKeepsTheInvariant : Obligations.EveryTickKeepsTheInvariant := fun _ _ => step_inv

/-- Settles O15: each of the things a host action can do keeps the invariant. -/
theorem everyHostActionKeepsTheInvariant : Obligations.EveryHostActionKeepsTheInvariant := fun _ _ _ _ => hostStep_inv

/-- Settles O17: every clause holds of the startup values, whatever the parameters. -/
theorem constructionMeetsTheInvariant : Obligations.ConstructionMeetsTheInvariant := construct_inv

/-- Settles O16: the state after reset is a CORE constructed with the defaults. -/
theorem resetMeetsTheInvariant : Obligations.ResetMeetsTheInvariant := construct_inv defaultParams

/-- Settles O50: the invariant and the parameters are kept by every action of the run, and with nothing listed below the
ROM start the bytes there are those of the construction. -/
theorem lowMemoryIsImmutable : Obligations.LowMemoryIsImmutable := by
  intro p rejected actions t hactions hrun a ha
  have hkeeps : t.Inv ∧ t.cfg = p := by
    refine runActions_keeps (P := fun s => s.Inv ∧ s.cfg = p) ?_ ⟨construct_inv p, rfl⟩ hrun
    rintro b hb s u r ⟨hinv, hcfg⟩ hu
    have hnot : ∀ q, b ≠ .construct q := by rintro q rfl; exact hactions q hb
    exact ⟨hostStep_inv hinv hu, (hostStep_cfg hnot hu).trans hcfg⟩
  obtain ⟨hinv, rfl⟩ := hkeeps
  exact read_below_rom hinv.romOnly ha

/-! ### The framebuffer and the fault mark -/

/-- Settles O33: a raise keeps the cells, and of the instructions only CLS and DRW write them; of the host's other
actions only Construct does. -/
theorem onlyClsAndDrwMutateTheFramebuffer : Obligations.OnlyClsAndDrwMutateTheFramebuffer := by
  refine ⟨fun s t ht hfb => ?_, fun a s t r ht htick hconstruct => ?_, fun s => rfl⟩
  · obtain ⟨-, ⟨r, -, rfl⟩ | ⟨w, hw, hexec, -, -, -, hout⟩⟩ := step_next_cases ht
    · exact absurd (raised_fb s r) hfb
    · have hdraws : (decode w).draws = true := by
        by_contra hnot
        exact hfb (exec_fb hexec (Bool.eq_false_of_not_eq_true hnot))
      exact ⟨⟨_, hout, hdraws⟩, w, hw, (decode w).draws_iff.mp hdraws⟩
  · obtain ⟨p, hp, -⟩ | ⟨data, -, -, rfl⟩ | rfl | ⟨ha, -⟩ | ⟨-, rfl⟩ | rfl := hostStep_cases ht
    · exact absurd hp (hconstruct p)
    case inr.inr.inr.inl => exact absurd ha htick
    all_goals rfl

/-- Settles O51: a faulted CORE has no Load and no tick, and the other actions do not write the mark. -/
theorem faultMarkStaysUntilConstruction : Obligations.FaultMarkStaysUntilConstruction := by
  intro a s t r q hmark ht hconstruct
  obtain ⟨p, hp, -⟩ | ⟨data, hnone, -, rfl⟩ | rfl | ⟨-, hstep⟩ | ⟨-, rfl⟩ | rfl := hostStep_cases ht
  · exact absurd hp (hconstruct p)
  case inr.inr.inr.inl => rw [step_faulted hmark] at hstep; cases hstep
  all_goals exact hmark

/-! ### Construct, Reset, Load and TimerTick -/

/-- Settles O44: memory lists nothing, so its bytes are the font and zeros, and every other field is a startup value. -/
theorem constructionLeavesFontAndZeros : Obligations.ConstructionLeavesFontAndZeros := by
  intro p
  have hzero : ∀ a, a < p.fontBase.val ∨ p.fontBase.val + 80 ≤ a → (State.construct p).byteAt a = 0x00#8 :=
    fun a ha => ha.elim unlistedByte_below_font unlistedByte_above_font
  exact ⟨fun j hj => unlistedByte_font p hj, hzero, readReg_of_startup rfl, rfl, rfl, rfl, rfl, fun k _ => get_blank k,
    rfl, rfl, rfl⟩

/-- Settles O45: Reset writes the registers, the timers, `pc` and `started`, and no other field. -/
theorem hostResetReinitialisesRegistersOnly : Obligations.HostResetReinitialisesRegistersOnly :=
  fun s => ⟨hostReset s, rfl, readReg_of_startup rfl, rfl, rfl, rfl, rfl, rfl, byteAt_congr rfl rfl, rfl, rfl, rfl⟩

/-- Settles O46: the Load is a write of its bytes from 0x200 on, and reads after it follow the law of such a write. -/
theorem loadCopiesIntoTheRomRegion : Obligations.LoadCopiesIntoTheRomRegion := by
  intro s data hinv hfaulted hstarted hfits
  have hread := read_writeBytes data hinv.memWf (Nat.add_le_add_left hfits romStart)
  refine ⟨_, hostLoad_of_fits hfaulted hstarted hfits, fun i hi => ?_, fun a ha => ?_, rfl⟩
  · refine (hread (0x200 + i)).trans ?_
    rw [if_pos (by simp only [romStart]; omega), Nat.add_sub_cancel_left]
  · refine (hread a).trans (if_neg ?_)
    simp only [romStart]
    omega

/-- Settles O48: a tick that completes has set `started`, Reset clears it, and the mark is looked at first. -/
theorem loadIsRefusedAfterATick : Obligations.LoadIsRefusedAfterATick := by
  refine ⟨fun s t data ht hmark => ?_, fun s data hfaulted hfits => ?_, fun s r data hmark => ?_⟩
  · obtain ⟨-, ⟨r, -, rfl⟩ | ⟨w, -, -, -, -, hstarted, -⟩⟩ := step_next_cases ht
    · cases hmark
    · exact hostLoad_of_started hmark hstarted data
  · exact ⟨_, hostLoad_of_fits (s := hostReset s) hfaulted rfl hfits⟩
  · exact hostLoad_of_faulted hmark data

/-- Settles O49: with TIMER_DECREMENT both timers count down and nothing else is written. -/
theorem timerTickCountsDownToZero : Obligations.TimerTickCountsDownToZero := by
  refine ⟨fun s htimers => ?_, fun s htimers => ?_⟩
  · have htick : hostStep .timerTick s = .next (s.setTimers (countDown s.dt) (countDown s.st), .done) := if_pos htimers
    exact ⟨_, htick, countDown_toNat s.dt, countDown_toNat s.st, rfl⟩
  · exact if_neg (by rw [htimers]; exact Bool.false_ne_true)

/-- Settles O52: each clause runs one action and reads off whether the run is marked after it. -/
theorem runStopsAtATickAfterARejectedLoad : Obligations.RunStopsAtATickAfterARejectedLoad := by
  have hload : ∀ rejected data, undutifulTick rejected (.load data) = false :=
    fun rejected data => undutifulTick_of_ne_tick HostAction.noConfusion rejected
  refine ⟨fun s rest => rfl, fun s data rest rejected hfaulted hstarted hlong => ?_,
    fun a s t r rest rejected ha ht => ?_, fun s data rest rejected hfaulted hstarted hfits => ?_,
    fun s p rest rejected => ?_, fun s t rest ht => ?_⟩
  · exact runActions_of_next (hload rejected data)
      (hostLoad_eq_romTooLarge_iff.mpr ⟨hfaulted, hstarted, hlong, rfl⟩) rest
  · simp only [List.mem_cons, List.not_mem_nil, or_false] at ha
    obtain rfl | rfl | rfl := ha <;>
      exact runActions_of_next (undutifulTick_of_ne_tick HostAction.noConfusion rejected) ht rest
  · exact ⟨_, runActions_of_next (hload rejected data) (hostLoad_of_fits hfaulted hstarted hfits) rest, rfl⟩
  · exact runActions_of_next (undutifulTick_of_ne_tick HostAction.noConfusion rejected) rfl rest
  · exact runActions_of_next (a := .tick) rfl (hostTick_of_step ht) rest

end Sys2Proof
end
